-- ==== Sys2Proof/Word.lean ====
section
/-! DEFINITION. The widths of the block's data: every memory element is a byte, every ARG operand is
16 bits and every register is seen by the host as 32 bits (00_scope.md R10, 10_state.md R33). -/

namespace Sys2Proof

/-- One codeword, one memory element, one GF(256) element. -/
abbrev Byte := BitVec 8

/-- The stored part of an ARG register (10_state.md R33 to R37). -/
abbrev Half := BitVec 16

/-- A register as the host reads or writes it; a command word (30_encoding.md R80). -/
abbrev Word := BitVec 32

end Sys2Proof
end

