-- ==== Sys2Proof/Syntax.lean ====
section
/-! DEFINITION. The eleven commands of the opcode map (30_encoding.md R86), one constructor for each row
of spec/opcode_table.json. Operands that stand in the command word are arguments; operands in ARG
registers (format R, and D and OFF of POLY_EVAL) are read from the state at completion. -/

namespace Sys2Proof

/-- A command of the block (30_encoding.md R86). -/
inductive Instr where
  /-- NOP (40_gf_arith.md R110) -/
  | nop
  /-- GF_ADD a, b (40_gf_arith.md R111) -/
  | gfAdd (a bv : Byte)
  /-- GF_MUL a, b (40_gf_arith.md R112) -/
  | gfMul (a bv : Byte)
  /-- GF_INV a (40_gf_arith.md R113) -/
  | gfInv (a : Byte)
  /-- GF_EXP i (40_gf_arith.md R114) -/
  | gfExp (i : Byte)
  /-- GF_LOG a (40_gf_arith.md R115) -/
  | gfLog (a : Byte)
  /-- GEN_POLY n (41_poly_rs.md R138) -/
  | genPoly (n : Byte)
  /-- POLY_EVAL x (41_poly_rs.md R139) -/
  | polyEval (x : Byte)
  /-- RS_ENCODE (41_poly_rs.md R144) -/
  | rsEncode
  /-- RS_BLOCKINFO (42_interleave.md R168) -/
  | rsBlockinfo
  /-- RS_INTERLEAVE (42_interleave.md R169) -/
  | rsInterleave
  deriving DecidableEq, Repr

end Sys2Proof
end

