-- ==== Sys2Proof/WellFormed.lean ====
section
/-! DEFINITION. Which 32-bit words are well-formed commands, from the match and mask columns of the opcode
map (30_encoding.md R86). This is a second reading of the encoding, independent of the decoder of
Decode.lean, which follows the case list of R87. A term of `Instr` needs no check of its own: its
operands are bytes and every byte is legal in every byte field (30_encoding.md R85), so what can be
ill-formed is a command WORD, by a reserved opcode or by a nonzero must-be-zero bit (R88). -/

namespace Sys2Proof

/-- One row of the opcode map: a word `w` selects it iff `w & mask = pattern`. -/
structure OpcodeRow where
  mnemonic : String
  pattern : Word
  mask : Word
  deriving DecidableEq, Repr

/-- The match and mask of every command (30_encoding.md R86). -/
def opcodeMap : List OpcodeRow :=
  [ ⟨"NOP", 0x00000000, 0xFFFFFFFF⟩,
    ⟨"GF_ADD", 0x00000001, 0xFF0000FF⟩,
    ⟨"GF_MUL", 0x00000002, 0xFF0000FF⟩,
    ⟨"GF_INV", 0x00000003, 0xFFFF00FF⟩,
    ⟨"GF_EXP", 0x00000004, 0xFFFF00FF⟩,
    ⟨"GF_LOG", 0x00000005, 0xFFFF00FF⟩ ] ++
  [ ⟨"GEN_POLY", 0x00000010, 0xFFFF00FF⟩,
    ⟨"POLY_EVAL", 0x00000011, 0xFFFF00FF⟩,
    ⟨"RS_ENCODE", 0x00000020, 0xFFFFFFFF⟩,
    ⟨"RS_BLOCKINFO", 0x00000021, 0xFFFFFFFF⟩,
    ⟨"RS_INTERLEAVE", 0x00000022, 0xFFFFFFFF⟩ ]

/-- Does the word `w` select this row? -/
def OpcodeRow.selects (r : OpcodeRow) (w : Word) : Bool := w &&& r.mask == r.pattern

/-- A well-formed command word: one that selects a row of the opcode map (30_encoding.md R86, R88). -/
def wellFormedWord (w : Word) : Bool := opcodeMap.any (·.selects w)

/-- Two rows overlap when some word selects both: they agree on the bits both masks fix. -/
def OpcodeRow.overlaps (r q : OpcodeRow) : Bool :=
  r.pattern &&& (r.mask &&& q.mask) == q.pattern &&& (r.mask &&& q.mask)

end Sys2Proof
end

