-- ==== Sys2Proof/Decode.lean ====
section
/-! DEFINITION. The decoder of 30_encoding.md R87, total on 32-bit words, rejecting by name; and the encoder,
written from the formats of R81 to R84. The word is bit-numbered as R10 says. -/

namespace Sys2Proof

/-- Why a command word is illegal (30_encoding.md R88). Both reasons abort with ILLEGAL_CMD. -/
inductive IllegalWord where
  /-- OP is none of the eleven opcodes of R86. -/
  | reservedOpcode
  /-- OP is an opcode, and a bit of its format's must-be-zero field is 1. -/
  | nonzeroMustBeZero
  deriving DecidableEq, Repr

/-- What a command word decodes to. -/
inductive Decoded where
  | command (i : Instr)
  | illegal (why : IllegalWord)
  deriving DecidableEq, Repr

/-- `OP = w[7:0]` (30_encoding.md R80). -/
def opField (w : Word) : Byte := w.extractLsb' 0 8

/-- `A = w[15:8]` (30_encoding.md R82, R83). -/
def operandA (w : Word) : Byte := w.extractLsb' 8 8

/-- `Bv = w[23:16]` (30_encoding.md R82). -/
def operandBv (w : Word) : Byte := w.extractLsb' 16 8

/-- Formats Z and R: legal iff `w[31:8] = 0` (30_encoding.md R81, R84, R87). -/
def decodeBare (w : Word) (i : Instr) : Decoded :=
  if w.extractLsb' 8 24 = 0 then .command i else .illegal .nonzeroMustBeZero

/-- Format G1: legal iff `w[31:16] = 0` (30_encoding.md R83, R87). -/
def decodeG1 (w : Word) (f : Byte → Instr) : Decoded :=
  if w.extractLsb' 16 16 = 0 then .command (f (operandA w)) else .illegal .nonzeroMustBeZero

/-- Format G2: legal iff `w[31:24] = 0` (30_encoding.md R82, R87). -/
def decodeG2 (w : Word) (f : Byte → Byte → Instr) : Decoded :=
  if w.extractLsb' 24 8 = 0 then .command (f (operandA w) (operandBv w))
  else .illegal .nonzeroMustBeZero

/-- The decoder (30_encoding.md R87): the case list on `w[7:0]`. -/
def decode (w : Word) : Decoded :=
  if opField w = 0x00#8 then decodeBare w .nop
  else if opField w = 0x01#8 then decodeG2 w .gfAdd
  else if opField w = 0x02#8 then decodeG2 w .gfMul
  else if opField w = 0x03#8 then decodeG1 w .gfInv
  else if opField w = 0x04#8 then decodeG1 w .gfExp
  else if opField w = 0x05#8 then decodeG1 w .gfLog
  else if opField w = 0x10#8 then decodeG1 w .genPoly
  else if opField w = 0x11#8 then decodeG1 w .polyEval
  else if opField w = 0x20#8 then decodeBare w .rsEncode
  else if opField w = 0x21#8 then decodeBare w .rsBlockinfo
  else if opField w = 0x22#8 then decodeBare w .rsInterleave
  else .illegal .reservedOpcode

/-- The opcode of a command (30_encoding.md R86). -/
def opcode : Instr → Byte
  | .nop => 0x00#8
  | .gfAdd _ _ => 0x01#8
  | .gfMul _ _ => 0x02#8
  | .gfInv _ => 0x03#8
  | .gfExp _ => 0x04#8
  | .gfLog _ => 0x05#8
  | .genPoly _ => 0x10#8
  | .polyEval _ => 0x11#8
  | .rsEncode => 0x20#8
  | .rsBlockinfo => 0x21#8
  | .rsInterleave => 0x22#8

/-- The layout of formats Z and R, `{0 (24 bits), OP}` (30_encoding.md R81, R84). -/
def encodeBare (op : Byte) : Word := 0#24 ++ op

/-- The layout of format G1, `{0 (16 bits), A, OP}` (30_encoding.md R83). -/
def encodeG1 (op a : Byte) : Word := 0#16 ++ a ++ op

/-- The layout of format G2, `{0 (8 bits), Bv, A, OP}` (30_encoding.md R82). -/
def encodeG2 (op a bv : Byte) : Word := 0#8 ++ bv ++ a ++ op

/-- The encoder (30_encoding.md R81 to R84, R86). -/
def encode (i : Instr) : Word :=
  match i with
  | .nop => encodeBare (opcode i)
  | .gfAdd a bv => encodeG2 (opcode i) a bv
  | .gfMul a bv => encodeG2 (opcode i) a bv
  | .gfInv a => encodeG1 (opcode i) a
  | .gfExp a => encodeG1 (opcode i) a
  | .gfLog a => encodeG1 (opcode i) a
  | .genPoly n => encodeG1 (opcode i) n
  | .polyEval x => encodeG1 (opcode i) x
  | .rsEncode => encodeBare (opcode i)
  | .rsBlockinfo => encodeBare (opcode i)
  | .rsInterleave => encodeBare (opcode i)

/-- The command word whose low `nbits` bits are `w` and whose other bits are 0. The block has one
32-bit word for each command (30_encoding.md R89), so nothing needs laying out in bytes. -/
def tableWord (nbits w : Nat) : Word := BitVec.ofNat 32 (w % 2 ^ nbits)

/-- What the decoder reads from the `nbits` table bits `w`; none where it rejects the word, and none
for a width that no command has (30_encoding.md R89). -/
def decodeTableWord (nbits w : Nat) : Option Instr :=
  if nbits ≤ 32 then
    match decode (tableWord nbits w) with
    | .command i => some i
    | .illegal _ => none
  else none

end Sys2Proof
end

