-- ==== Sys2Proof/Config.lean ====
section
/-! DEFINITION. The implementation parameters of 00_scope.md R8 and the free values: what
93_implementation_defined.md leaves open, as constants with no body, so that no proof can use a
value of theirs. -/

namespace Sys2Proof.Config

/-- `PRIM_POLY`: x^8 + x^4 + x^3 + x^2 + 1 (00_scope.md R8, 40_gf_arith.md R100). -/
def primPoly : Nat := 0x11D

/-- `ALPHA`, the primitive element (00_scope.md R8). -/
def alpha : Byte := 0x02

/-- `GEN_BASE`, the exponent of the first generator root (00_scope.md R8). -/
def genBase : Nat := 0

/-- `BUF_BYTES`: bytes in IN_MEM and in OUT_MEM (00_scope.md R8). -/
def bufBytes : Nat := 4096

/-- `MAX_EC`: the largest EC count per block (00_scope.md R8). -/
def maxEc : Nat := 255

/-- `GEN_BYTES`: bytes in GEN_MEM (00_scope.md R8). -/
def genBytes : Nat := 256

/-- `EC_BYTES`: bytes in EC_MEM (00_scope.md R8). -/
def ecBytes : Nat := 256

/-- The constant of the ID register, the ASCII bytes "RSE1" (10_state.md R22). -/
def idWord : Word := 0x52534531

/-- FREE VALUE (93_implementation_defined.md U1, U2; 70_reset_and_hazards.md R231): what the memory
byte at host address `addr` holds after hardware reset number `epoch`, `resetByte epoch addr`. -/
opaque resetByte : Nat → Nat → BitVec 8

/-- FREE VALUE (93_implementation_defined.md U4; 20_memory.md R68): the 32-bit word that a read
returns while BUSY = 1, fresh for each value of the draw counter. -/
opaque busyRead : Nat → BitVec 32

/-- FREE VALUE `LATENCY` (00_scope.md R8; 93_implementation_defined.md U5, U18): how many host steps
pass between the acceptance of a command and its completion, one number for each acceptance. -/
opaque latency : Nat → Nat

/-- FREE VALUE `IRQ_LINE` (00_scope.md R8; 93_implementation_defined.md U6): the platform's interrupt
number that `irq` is wired to. No rule depends on it and nothing in the model reads it. -/
opaque irqLine : Nat

end Sys2Proof.Config
end

