-- ==== Sys2Proof/Machine/State.lean ====
section
/-! DEFINITION. The state of the block, as plain data (10_state.md R20, R49), the host inputs still to come,
and the reasons a step can stop. The fields after `rst` are the model's own (notes/assumptions 2 to 5). -/

namespace Sys2Proof.Machine

/-- The values of STATUS.ERRCODE, in the order of their codes 0 to 15 (60_exceptions.md R201). -/
inductive ErrCode where
  | none
  | illegalCmd
  | gfDomain
  | noEcBytes
  | noDataBytes
  | blocksZero
  | totalRange
  | dataRange
  | blockIdRange
  | spanRange
  | ecRange
  | ecMismatch
  | blockMismatch
  | totalMismatch
  | dataMismatch
  | interleaveMismatch
  deriving DecidableEq, Repr

/-- STATUS, field by field (10_state.md R23). The host reads it as one word (`Status.word`) and never
writes it; its reserved bits read as 0 and hold nothing. -/
structure Status where
  busy : Bool
  done : Bool
  err : Bool
  accessErr : Bool
  errcode : ErrCode
  deriving DecidableEq, Repr

/-- IRQ_EN, field by field (10_state.md R30); its reserved bits are RAZ/WI and hold nothing. -/
structure IrqEnable where
  doneIe : Bool
  errIe : Bool
  accIe : Bool
  deriving DecidableEq, Repr

/-- The four byte memories (10_state.md R40 to R43). -/
inductive Space where
  | inMem
  | outMem
  | genMem
  | ecMem
  deriving DecidableEq, Repr

/-- The twelve host-visible registers (10_state.md R21). -/
inductive Reg where
  | id
  | status
  | ctrl
  | irqEn
  | cmd
  | result
  | argT
  | argD
  | argB
  | argK
  | argOff
  | genDeg
  deriving DecidableEq, Repr

/-- The response of a bus transaction (20_memory.md R60). -/
inductive Resp where
  | ok
  | busErr
  deriving DecidableEq, Repr

/-- What the bus answered to a transaction (20_memory.md R60). -/
inductive Response where
  | read (data : Word) (resp : Resp)
  | write (resp : Resp)
  deriving DecidableEq, Repr

/-- What the outside does to the block in one step: the two bus transactions of 20_memory.md R60, the
pseudo-command WAIT of 30_encoding.md R91, and the level of the reset input (70_reset_and_hazards.md
R230). -/
inductive Input where
  | read (addr : BitVec 16)
  | write (addr : BitVec 16) (data : Word) (strb : BitVec 4)
  | waitIdle
  | rst (level : Bool)
  deriving DecidableEq, Repr

/-- Why the machine stops with a fault. -/
inductive Fault where
  /-- Raised by a host bus transaction (a read, a write, a WAIT) that comes while `rst` is asserted:
  70_reset_and_hazards.md R230 does not specify it and 93_implementation_defined.md U7 allows the
  fault. SAFE: the model stops where hardware may go on. No command raises it. -/
  | hostAccessDuringReset
  deriving DecidableEq, Repr

/-- Why the machine refuses an instruction. -/
inductive Refusal where
  /-- An instruction that has no meaning in `exec` yet, by its mnemonic; no arm of `exec` answers so.
  SAFE. -/
  | notModelled (mnemonic : String)
  deriving DecidableEq, Repr

/-- The state of the block (10_state.md R20). ID and the EXP and LOG tables are constants and CTRL
holds no state, so they have no field; `irq` is a function of the registers (`State.irq`). -/
structure State where
  /-- STATUS (R23); BUSY is also the pending-command state (R46). -/
  status : Status
  /-- IRQ_EN (R30). -/
  irqEn : IrqEnable
  /-- CMD, all 32 bits stored (R31). -/
  cmd : Word
  /-- RESULT (R32). -/
  result : Word
  /-- ARG_T[15:0] (R33). -/
  argT : Half
  /-- ARG_D[15:0] (R34). -/
  argD : Half
  /-- ARG_B[15:0] (R35). -/
  argB : Half
  /-- ARG_K[15:0] (R36). -/
  argK : Half
  /-- ARG_OFF[15:0] (R37). -/
  argOff : Half
  /-- GEN_DEG[7:0] (R38). -/
  genDeg : Byte
  /-- The written bytes of the four memories (R40 to R43), by host address, addresses strictly rising.
  An address that is not listed holds what the last hardware reset left there. -/
  mem : List Host.Cell
  /-- The reset input is asserted (70_reset_and_hazards.md R230). -/
  rst : Bool
  /-- The host's inputs still to come, oldest first. -/
  inputs : List Input
  /-- What the bus answered to the last transaction. -/
  response : Option Response
  /-- How many host steps still pass before the pending command completes. -/
  wait : Nat
  /-- The counter by which free values are drawn. -/
  draws : Nat
  /-- The number of hardware-reset events so far. -/
  epoch : Nat
  deriving DecidableEq, Repr

/-- The machine right after hardware reset (10_state.md R49, 70_reset_and_hazards.md R230, R231). -/
def State.reset : State where
  status := ⟨false, false, false, false, .none⟩
  irqEn := ⟨false, false, false⟩
  cmd := 0
  result := 0
  argT := 0
  argD := 0
  argB := 0
  argK := 0
  argOff := 0
  genDeg := 0
  mem := []
  rst := false
  inputs := []
  response := .none
  wait := 0
  draws := 0
  epoch := 0

end Sys2Proof.Machine
end

