-- ==== Sys2Proof/Machine/Flags.lean ====
section
/-! DEFINITION. STATUS and IRQ_EN as the host reads them (10_state.md R23, R30), every event that sets or
clears a STATUS field (R24 to R27), and the `irq` line (R44). -/

namespace Sys2Proof.Machine

/-- The 4-bit ERRCODE value of an error (60_exceptions.md R201). -/
def ErrCode.code : ErrCode → BitVec 4
  | .none => 0
  | .illegalCmd => 1
  | .gfDomain => 2
  | .noEcBytes => 3
  | .noDataBytes => 4
  | .blocksZero => 5
  | .totalRange => 6
  | .dataRange => 7
  | .blockIdRange => 8
  | .spanRange => 9
  | .ecRange => 10
  | .ecMismatch => 11
  | .blockMismatch => 12
  | .totalMismatch => 13
  | .dataMismatch => 14
  | .interleaveMismatch => 15

/-- STATUS as a word: `{0 (24 bits), ERRCODE, ACCESS_ERR, ERR, DONE, BUSY}` (10_state.md R23). -/
def Status.word (st : Status) : Word :=
  0#24 ++ st.errcode.code ++ BitVec.ofBool st.accessErr ++ BitVec.ofBool st.err
    ++ BitVec.ofBool st.done ++ BitVec.ofBool st.busy

/-- IRQ_EN as a word: `{0 (29 bits), ACC_IE, ERR_IE, DONE_IE}` (10_state.md R30). -/
def IrqEnable.word (e : IrqEnable) : Word :=
  0#29 ++ BitVec.ofBool e.accIe ++ BitVec.ofBool e.errIe ++ BitVec.ofBool e.doneIe

/-- What a write of `w` leaves in IRQ_EN: the reserved bits are ignored (10_state.md R30). -/
def IrqEnable.ofWord (w : Word) : IrqEnable where
  doneIe := w.getLsbD 0
  errIe := w.getLsbD 1
  accIe := w.getLsbD 2

/-- STATUS when a command is accepted: BUSY is set, DONE, ERR and ERRCODE are cleared and ACCESS_ERR
stays (10_state.md R27, R31). -/
def Status.accepted (st : Status) : Status :=
  { st with busy := true, done := false, err := false, errcode := .none }

/-- STATUS when a command completes without error (60_exceptions.md R206). -/
def Status.succeeded (st : Status) : Status :=
  { st with busy := false, done := true, err := false, errcode := .none }

/-- STATUS when a command is aborted with code `c` (60_exceptions.md R204). -/
def Status.aborted (st : Status) (c : ErrCode) : Status :=
  { st with busy := false, done := false, err := true, errcode := c }

/-- STATUS after a write of CTRL.CLR = 1 (10_state.md R29): BUSY stays. -/
def Status.cleared (st : Status) : Status :=
  { st with done := false, err := false, errcode := .none, accessErr := false }

/-- STATUS after a write that the busy rule refused (10_state.md R27, 20_memory.md R67). -/
def Status.accessRefused (st : Status) : Status := { st with accessErr := true }

/-- The output line `irq`, a function of the registers at every instant (10_state.md R44). -/
def State.irq (s : State) : Bool :=
  (s.status.done && s.irqEn.doneIe) || (s.status.err && s.irqEn.errIe)
    || (s.status.accessErr && s.irqEn.accIe)

end Sys2Proof.Machine
end

