-- ==== Sys2Proof/Machine/Operands.lean ====
section
/-! DEFINITION. The operands a command reads from the ARG registers, as naturals (30_encoding.md R85), and
the forms a result takes in RESULT (10_state.md R32). -/

namespace Sys2Proof.Machine

/-- `T = ARG_T[15:0]` (30_encoding.md R85). -/
def State.opT (s : State) : Nat := s.argT.toNat

/-- `D = ARG_D[15:0]` (30_encoding.md R85). -/
def State.opD (s : State) : Nat := s.argD.toNat

/-- `B = ARG_B[15:0]` (30_encoding.md R85). -/
def State.opB (s : State) : Nat := s.argB.toNat

/-- `K = ARG_K[15:0]` (30_encoding.md R85). -/
def State.opK (s : State) : Nat := s.argK.toNat

/-- `OFF = ARG_OFF[15:0]` (30_encoding.md R85). -/
def State.opOff (s : State) : Nat := s.argOff.toNat

/-- `zext_32` of a byte or a half (00_scope.md R12). -/
def zext32 {n : Nat} (v : BitVec n) : Word := v.setWidth 32

/-- A natural as a 32-bit RESULT (00_scope.md R12). -/
def natWord (n : Nat) : Word := BitVec.ofNat 32 n

/-- `{e[15:0], d[15:0]}`, the RESULT of RS_BLOCKINFO (42_interleave.md R168). -/
def pairWord (d e : Nat) : Word := BitVec.ofNat 16 e ++ BitVec.ofNat 16 d

end Sys2Proof.Machine
end

