-- ==== Sys2Proof/Machine/Ops.lean ====
section
/-! DEFINITION. The shared operations: bytes of the four memories (00_scope.md R12 `MemRead`, `MemWrite`),
acceptance (10_state.md R31), successful completion and abort (60_exceptions.md R206, R204), and the
two resets (70_reset_and_hazards.md R230, R233). -/

namespace Sys2Proof.Machine

/-! ### Memory as a list of written bytes -/

/-- The canonical form: addresses strictly rising. An address that is not listed holds no written
byte, so no entry can equal what an unlisted address holds. -/
abbrev Memory.wf (m : List Host.Cell) : Prop := m.Pairwise (fun x y => x.1 < y.1)

/-- Every listed address lies in one of the four windows (10_state.md R21). -/
abbrev Memory.mapped (m : List Host.Cell) : Prop := ∀ c ∈ m, 0x1000 ≤ c.1 ∧ c.1 < 0x3200

/-- The written byte at an address, if there is one. -/
def Memory.lookup : List Host.Cell → Nat → Option Byte
  | [], _ => none
  | (k, v) :: m, a => if k = a then some v else Memory.lookup m a

/-- Write one byte, keeping the addresses rising. -/
def Memory.store : List Host.Cell → Nat → Byte → List Host.Cell
  | [], a, b => [(a, b)]
  | (k, v) :: m, a, b =>
    if a < k then (a, b) :: (k, v) :: m
    else if a = k then (a, b) :: m
    else (k, v) :: Memory.store m a b

/-- Write a list of bytes at `a`, `a + 1`, and so on. -/
def Memory.storeBytes : List Host.Cell → Nat → List Byte → List Host.Cell
  | m, _, [] => m
  | m, a, b :: bs => Memory.storeBytes (Memory.store m a b) (a + 1) bs

/-! ### The four memories -/

/-- The host offset of byte 0 of a memory (10_state.md R21). -/
def Space.base : Space → Nat
  | .inMem => 0x1000
  | .outMem => 0x2000
  | .genMem => 0x3000
  | .ecMem => 0x3100

/-- The number of bytes of a memory (10_state.md R40 to R43). -/
def Space.size : Space → Nat
  | .inMem => Config.bufBytes
  | .outMem => Config.bufBytes
  | .genMem => Config.genBytes
  | .ecMem => Config.ecBytes

/-- The byte at host address `a`: the written byte, or else what the last hardware reset left there, a
free value (70_reset_and_hazards.md R231). -/
def State.byteAtAddr (s : State) (a : Nat) : Byte :=
  (Memory.lookup s.mem a).getD (Config.resetByte s.epoch a)

/-- Byte `i` of a memory: `IN[i]`, `OUT[i]`, `GEN[i]`, `ECM[i]` (00_scope.md R12). -/
def State.byteAt (s : State) (sp : Space) (i : Nat) : Byte := s.byteAtAddr (sp.base + i)

/-- `MemRead(space, i, n)` (00_scope.md R12). -/
def State.readBytes (s : State) (sp : Space) (i n : Nat) : List Byte :=
  (List.range n).map (fun j => s.byteAt sp (i + j))

/-- Write one byte of a memory. -/
def State.writeByte (s : State) (sp : Space) (i : Nat) (b : Byte) : State :=
  { s with mem := Memory.store s.mem (sp.base + i) b }

/-- `MemWrite(space, i, n, list)` with `n` the length of the list (00_scope.md R12). -/
def State.writeBytes (s : State) (sp : Space) (i : Nat) (bs : List Byte) : State :=
  { s with mem := Memory.storeBytes s.mem (sp.base + i) bs }

/-! ### Acceptance and completion of a command -/

/-- A command is accepted: CMD takes the whole word, BUSY is set, DONE, ERR and ERRCODE are cleared
(10_state.md R31). The number of host steps until the completion is drawn here
(70_reset_and_hazards.md R244). -/
def State.accept (s : State) (w : Word) : State :=
  { s with
    cmd := w
    status := s.status.accepted
    wait := Config.latency s.draws
    draws := s.draws + 1 }

/-- Successful completion, after the command's output writes (60_exceptions.md R206). -/
def State.succeed (s : State) : State := { s with status := s.status.succeeded }

/-- Abort with an error: the block's way of taking an exception. Four STATUS fields change and nothing
else (60_exceptions.md R204). -/
def State.abort (s : State) (c : ErrCode) : State := { s with status := s.status.aborted c }

/-- Write RESULT (10_state.md R32). -/
def State.setResult (s : State) (w : Word) : State := { s with result := w }

/-- Write GEN_DEG (10_state.md R38). -/
def State.setGenDeg (s : State) (n : Byte) : State := { s with genDeg := n }

/-- The first error of a command's ordered list of checks (60_exceptions.md R203); a check is the
condition that raises the error, and the error. -/
def firstError : List (Bool × ErrCode) → Option ErrCode
  | [] => none
  | (bad, c) :: checks => if bad then some c else firstError checks

/-- A command's checks and what follows them: the first error aborts the command (60_exceptions.md R203,
R204), and only when every check has passed does `body` run (R205). -/
def State.checked (s : State) (checks : List (Bool × ErrCode))
    (body : Unit → Host.Outcome State Fault Refusal) : Host.Outcome State Fault Refusal :=
  match firstError checks with
  | some c => .next (s.abort c)
  | none => body ()

/-! ### Reset -/

/-- Every register at its reset value and no command pending (10_state.md R49). The memories, the
reset input and the model's own fields stay. -/
def State.resetRegisters (s : State) : State :=
  { s with
    status := ⟨false, false, false, false, .none⟩
    irqEn := ⟨false, false, false⟩
    cmd := 0
    result := 0
    argT := 0
    argD := 0
    argB := 0
    argK := 0
    argOff := 0
    genDeg := 0 }

/-- Soft reset: the registers reset, a pending command is discarded without effect, and the memories
keep their contents (70_reset_and_hazards.md R233). -/
def State.softReset (s : State) : State := s.resetRegisters

/-- Hardware reset: the registers reset, a pending command is discarded, and every memory byte holds a
new unspecified value (70_reset_and_hazards.md R230, R231, R232). -/
def State.hardReset (s : State) : State :=
  { s.resetRegisters with mem := [], epoch := s.epoch + 1 }

/-- The reset input takes a level: the block is reset when it is asserted and at its release
(70_reset_and_hazards.md R230). -/
def State.setRst (s : State) (level : Bool) : State :=
  if level then { s.hardReset with rst := true }
  else if s.rst then { s.hardReset with rst := false }
  else s

end Sys2Proof.Machine
end

