-- ==== Sys2Proof/Machine/Bus.lean ====
section
/-! DEFINITION. The host's bus transactions (20_memory.md R60 to R69) on the address map of 10_state.md R21. -/

namespace Sys2Proof.Machine

/-- What an aligned address names: a register, the word of a memory whose first byte is byte `i`, or
nothing (10_state.md R21, R39). -/
inductive Target where
  | reg (r : Reg)
  | word (sp : Space) (i : Nat)
  | unmapped
  deriving DecidableEq, Repr

/-- The register offsets of 10_state.md R21. -/
def Reg.offset : Reg → BitVec 16
  | .id => 0x0000
  | .status => 0x0004
  | .ctrl => 0x0008
  | .irqEn => 0x000C
  | .cmd => 0x0010
  | .result => 0x0014
  | .argT => 0x0018
  | .argD => 0x001C
  | .argB => 0x0020
  | .argK => 0x0024
  | .argOff => 0x0028
  | .genDeg => 0x002C

/-- The twelve registers in the order of their offsets. -/
def allRegs : List Reg :=
  [.id, .status, .ctrl, .irqEn, .cmd, .result, .argT, .argD, .argB, .argK, .argOff, .genDeg]

/-- The four memories in the order of their offsets. -/
def allSpaces : List Space := [.inMem, .outMem, .genMem, .ecMem]

/-- Does the memory's window hold the address? (10_state.md R21) -/
def Space.holds (sp : Space) (a : Nat) : Bool :=
  decide (sp.base ≤ a) && decide (a < sp.base + sp.size)

/-- The address map (10_state.md R21). -/
def targetOf (addr : BitVec 16) : Target :=
  match allRegs.find? (fun r => r.offset == addr) with
  | some r => .reg r
  | none =>
    match allSpaces.find? (fun sp => sp.holds addr.toNat) with
    | some sp => .word sp (addr.toNat - sp.base)
    | none => .unmapped

/-- An address of an aligned word (20_memory.md R61). -/
def aligned (addr : BitVec 16) : Bool := addr.extractLsb' 0 2 == 0

/-! ### Reads -/

/-- The stored value of a register as a word; CTRL reads 0 (10_state.md R22 to R38). -/
def State.regWord (s : State) : Reg → Word
  | .id => Config.idWord
  | .status => s.status.word
  | .ctrl => 0
  | .irqEn => s.irqEn.word
  | .cmd => s.cmd
  | .result => s.result
  | .argT => zext32 s.argT
  | .argD => zext32 s.argD
  | .argB => zext32 s.argB
  | .argK => zext32 s.argK
  | .argOff => zext32 s.argOff
  | .genDeg => zext32 s.genDeg

/-- The memory word whose first byte is byte `i`: little-endian lanes (20_memory.md R62). -/
def State.memWord (s : State) (sp : Space) (i : Nat) : Word :=
  s.byteAt sp (i + 3) ++ s.byteAt sp (i + 2) ++ s.byteAt sp (i + 1) ++ s.byteAt sp i

/-- The targets whose reads are unspecified while BUSY = 1: RESULT, GEN_DEG and the three memories the
engine writes (20_memory.md R68). -/
def Target.hiddenWhileBusy : Target → Bool
  | .reg .result => true
  | .reg .genDeg => true
  | .word .outMem _ => true
  | .word .genMem _ => true
  | .word .ecMem _ => true
  | _ => false

/-- `Read(addr)`: the data and the response (20_memory.md R60, R61, R68, R69). -/
def busRead (addr : BitVec 16) (s : State) : Word × Resp :=
  if aligned addr then
    match targetOf addr with
    | .unmapped => (0, .busErr)
    | .reg r =>
      if s.status.busy && (Target.reg r).hiddenWhileBusy then (Config.busyRead s.draws, .ok)
      else (s.regWord r, .ok)
    | .word sp i =>
      if s.status.busy && (Target.word sp i).hiddenWhileBusy then (Config.busyRead s.draws, .ok)
      else (s.memWord sp i, .ok)
  else (0, .busErr)

/-- A read as a host step: the answer is on the bus, and no state of the block changes (20_memory.md
R66). The draw counter is the model's. -/
def State.doRead (s : State) (addr : BitVec 16) : State :=
  { s with
    response := some (.read (busRead addr s).1 (busRead addr s).2)
    draws := s.draws + 1 }

/-! ### Writes -/

/-- Targets the host may not write: unmapped ones, ID, STATUS, RESULT, GEN_DEG and the three memories the
engine writes (20_memory.md R69). -/
def Target.readOnly : Target → Bool
  | .unmapped => true
  | .reg .id => true
  | .reg .status => true
  | .reg .result => true
  | .reg .genDeg => true
  | .reg _ => false
  | .word .inMem _ => false
  | .word _ _ => true

/-- Registers are written whole (20_memory.md R64); IN_MEM honours every strobe (R65). -/
def Target.strobeOk (strb : BitVec 4) : Target → Bool
  | .reg _ => strb == 0b1111
  | _ => true

/-- Targets whose writes are refused while BUSY = 1: CMD, the ARG registers and IN_MEM (20_memory.md
R67). -/
def Target.lockedWhileBusy : Target → Bool
  | .reg .cmd => true
  | .reg .argT => true
  | .reg .argD => true
  | .reg .argB => true
  | .reg .argK => true
  | .reg .argOff => true
  | .word .inMem _ => true
  | _ => false

/-- A write of CTRL: bit 0 is SOFT_RESET and bit 1 is CLR; the soft reset already does what CLR does
(10_state.md R29). -/
def State.writeCtrl (s : State) (w : Word) : State :=
  if w.getLsbD 0 then s.softReset
  else if w.getLsbD 1 then { s with status := s.status.cleared }
  else s

/-- An accepted write of a register (10_state.md R29 to R37); the read-only ones store nothing. -/
def State.writeReg (s : State) (w : Word) : Reg → State
  | .ctrl => s.writeCtrl w
  | .irqEn => { s with irqEn := IrqEnable.ofWord w }
  | .cmd => s.accept w
  | .argT => { s with argT := w.extractLsb' 0 16 }
  | .argD => { s with argD := w.extractLsb' 0 16 }
  | .argB => { s with argB := w.extractLsb' 0 16 }
  | .argK => { s with argK := w.extractLsb' 0 16 }
  | .argOff => { s with argOff := w.extractLsb' 0 16 }
  | .id => s
  | .status => s
  | .result => s
  | .genDeg => s

/-- Byte lane `l` of a bus word, bits `8l+7 .. 8l` (20_memory.md R62). -/
def lane (w : Word) (l : Nat) : Byte := w.extractLsb' (8 * l) 8

/-- Write lane `l` where its strobe is 1 (20_memory.md R62, R65). -/
def State.writeLane (s : State) (sp : Space) (i : Nat) (w : Word) (strb : BitVec 4) (l : Nat) : State :=
  if strb.getLsbD l then s.writeByte sp (i + l) (lane w l) else s

/-- Write the enabled byte lanes of a memory word and leave the others (20_memory.md R65). -/
def State.writeLanes (s : State) (sp : Space) (i : Nat) (w : Word) (strb : BitVec 4) : State :=
  [0, 1, 2, 3].foldl (fun t l => t.writeLane sp i w strb l) s

/-- An accepted write of a target. -/
def State.writeTarget (s : State) (w : Word) (strb : BitVec 4) : Target → State
  | .reg r => s.writeReg w r
  | .word sp i => s.writeLanes sp i w strb
  | .unmapped => s

/-- `Write(addr, data, strb)`: the state and the response. The checks come in the order misalignment,
unmapped or read-only target, strobes, busy (20_memory.md R67), and only the busy rule sets
ACCESS_ERR. -/
def busWrite (addr : BitVec 16) (w : Word) (strb : BitVec 4) (s : State) : State × Resp :=
  if !aligned addr then (s, .busErr)
  else if (targetOf addr).readOnly then (s, .busErr)
  else if !(targetOf addr).strobeOk strb then (s, .busErr)
  else if s.status.busy && (targetOf addr).lockedWhileBusy then
    ({ s with status := s.status.accessRefused }, .busErr)
  else (s.writeTarget w strb (targetOf addr), .ok)

/-- A write as a host step: its effect, and the answer on the bus. -/
def State.doWrite (s : State) (addr : BitVec 16) (w : Word) (strb : BitVec 4) : State :=
  { (busWrite addr w strb s).1 with response := some (.write (busWrite addr w strb s).2) }

/-! ### One host step -/

/-- One turn of the WAIT loop: a read of STATUS, and the loop goes on while BUSY = 1 (30_encoding.md
R91). -/
def State.doWait (s : State) : State :=
  if s.status.busy then { s.doRead Reg.status.offset with inputs := .waitIdle :: s.inputs }
  else s.doRead Reg.status.offset

/-- What one input does to the state (20_memory.md R60, 70_reset_and_hazards.md R230). -/
def State.perform (s : State) : Input → State
  | .read addr => s.doRead addr
  | .write addr w strb => s.doWrite addr w strb
  | .waitIdle => s.doWait
  | .rst level => s.setRst level

/-- Is the input a bus transaction? -/
def Input.isTransaction : Input → Bool
  | .read _ => true
  | .write _ _ _ => true
  | .waitIdle => true
  | .rst _ => false

/-- The state with the first input taken: the other inputs stay, and one of the host steps that the
pending command lets pass is used up. -/
def State.takeInput (s : State) (rest : List Input) : State :=
  { s with inputs := rest, wait := s.wait - 1 }

/-- One step of the host: the first of its inputs, or nothing when it has none. A transaction while the
reset input is asserted is a fault (93_implementation_defined.md U7). -/
def hostStep (s : State) : Host.Outcome State Fault Refusal :=
  match s.inputs with
  | [] => .next s
  | i :: rest =>
    if s.rst && i.isTransaction then .fault .hostAccessDuringReset
    else .next ((s.takeInput rest).perform i)

end Sys2Proof.Machine
end

