-- ==== Sys2Proof/Machine/GfCommands.lean ====
section
/-! DEFINITION. The meanings of NOP and of the scalar GF(256) commands (40_gf_arith.md R110 to R115). -/

namespace Sys2Proof.Machine

/-- NOP (40_gf_arith.md R110): RESULT stays. -/
def execNop (s : State) : Host.Outcome State Fault Refusal := .next s.succeed

/-- GF_ADD (40_gf_arith.md R111). -/
def execGfAdd (a bv : Byte) (s : State) : Host.Outcome State Fault Refusal :=
  .next (s.setResult (zext32 (gfAdd a bv))).succeed

/-- GF_MUL (40_gf_arith.md R112). -/
def execGfMul (a bv : Byte) (s : State) : Host.Outcome State Fault Refusal :=
  .next (s.setResult (zext32 (gfMul a bv))).succeed

/-- GF_INV (40_gf_arith.md R113): the inverse of 0 aborts with GF_DOMAIN. -/
def execGfInv (a : Byte) (s : State) : Host.Outcome State Fault Refusal :=
  match gfInv a with
  | none => .next (s.abort .gfDomain)
  | some r => .next (s.setResult (zext32 r)).succeed

/-- GF_EXP (40_gf_arith.md R114). -/
def execGfExp (i : Byte) (s : State) : Host.Outcome State Fault Refusal :=
  .next (s.setResult (zext32 (expOf i.toNat))).succeed

/-- GF_LOG (40_gf_arith.md R115): the logarithm of 0 aborts with GF_DOMAIN. -/
def execGfLog (a : Byte) (s : State) : Host.Outcome State Fault Refusal :=
  match logOf a with
  | none => .next (s.abort .gfDomain)
  | some i => .next (s.setResult (natWord i)).succeed

end Sys2Proof.Machine
end

