-- ==== Sys2Proof/Machine/Poly.lean ====
section
/-! DEFINITION. Polynomials over GF(256) as lists of coefficients, highest degree first (41_poly_rs.md R131
to R136), the generator polynomial (R130, R137), and the EC bytes of a data block, by long division
(R140, R141) and by the shift register (R142). -/

namespace Sys2Proof.Machine

/-- `norm`: without leading zeros, `[0]` for the zero polynomial (41_poly_rs.md R131). -/
def norm (p : List Byte) : List Byte :=
  match p.dropWhile (· == 0) with
  | [] => [0]
  | q => q

/-- `deg` (41_poly_rs.md R131); the zero polynomial has degree 0. -/
def deg (p : List Byte) : Nat := (norm p).length - 1

/-- `coef(p, k)`, the coefficient of x^k, 0 above the degree (41_poly_rs.md R131). -/
def coef (p : List Byte) (k : Nat) : Byte := p.reverse.getD k 0

/-- The leading coefficient, `coef(p, deg(p))`. -/
def lead (p : List Byte) : Byte := coef p (deg p)

/-- A list of at least `n` coefficients for the same polynomial. -/
def padTo (n : Nat) (p : List Byte) : List Byte := List.replicate (n - p.length) 0 ++ p

/-- The sum coefficient by coefficient, not normalised. -/
def addRaw (p q : List Byte) : List Byte :=
  List.zipWith gfAdd (padTo q.length p) (padTo p.length q)

/-- `poly_add`, which is subtraction too (41_poly_rs.md R132). -/
def polyAdd (p q : List Byte) : List Byte := norm (addRaw p q)

/-- Every coefficient times `c`. -/
def scale (c : Byte) (p : List Byte) : List Byte := p.map (fun a => gfMul a c)

/-- The sum of `p[i]·q[j]` at each place `i + j`, as `a + b - 1` coefficients, before the normal form
(41_poly_rs.md R133): one row for each coefficient of `q`. -/
def mulRaw (p : List Byte) : List Byte → List Byte
  | [] => List.replicate (p.length - 1) 0
  | c :: q => addRaw (scale c p ++ List.replicate q.length 0) (mulRaw p q)

/-- `poly_mul` (41_poly_rs.md R133). -/
def polyMul (p q : List Byte) : List Byte := norm (mulRaw p q)

/-- `mul_monomial(p, k, c)`, that is c·x^k·p(x) (41_poly_rs.md R134). -/
def mulMonomial (p : List Byte) (k : Nat) (c : Byte) : List Byte :=
  if c = 0 then [0] else norm (scale c p ++ List.replicate k 0)

/-- The loop of `poly_mod` (41_poly_rs.md R135), at most `fuel` iterations. -/
def polyModLoop (g : List Byte) (leadInv : Byte) : Nat → List Byte → List Byte
  | 0, r => r
  | fuel + 1, r =>
    if deg r ≥ deg g ∧ r ≠ [0] then
      polyModLoop g leadInv fuel
        (polyAdd r (mulMonomial g (deg r - deg g) (gfMul (lead r) leadInv)))
    else r

/-- `poly_mod(p, g)` for a divisor `g` that is not the zero polynomial; its loop ends after at most
`deg(p) - deg(g) + 1` iterations (41_poly_rs.md R135). The zero divisor is outside the function's
domain and no command reaches it; the definition then leaves the dividend as it is. -/
def polyMod (p g : List Byte) : List Byte :=
  match gfInv (lead g) with
  | some leadInv => polyModLoop g leadInv (deg p - deg g + 1) (norm p)
  | none => norm p

/-- `poly_eval(p, x)`, Horner's rule (41_poly_rs.md R136). -/
def polyEval (p : List Byte) (x : Byte) : Byte := p.foldl (fun acc c => gfAdd (gfMul acc x) c) 0

/-- `gen_poly(n)`: the product of x + α^(d-1+GEN_BASE) for d = 1..n (41_poly_rs.md R130, R137). -/
def genPoly : Nat → List Byte
  | 0 => [1]
  | d + 1 => polyMul (genPoly d) [1, expOf ((d + Config.genBase) % 255)]

/-- The `e` coefficients of `r`, zeros in front of the highest (41_poly_rs.md R140, R141). -/
def rightAlign (e : Nat) (r : List Byte) : List Byte :=
  List.replicate (e - (norm r).length) 0 ++ norm r

/-- `rs_ec(data, e)`: the remainder of M(x)·x^e divided by g_e(x), as exactly `e` bytes, for data of at
least one byte and `1 ≤ e ≤ 255` (41_poly_rs.md R140). -/
def rsEc (data : List Byte) (e : Nat) : List Byte :=
  rightAlign e (polyMod (mulMonomial (norm data) e 1) (genPoly e))

/-- One data byte through the shift register: `reg[j] <- reg[j+1] ⊕ f·g[j+1]`, with 0 shifted in at the
end (41_poly_rs.md R142). -/
def lfsrStep (g : List Byte) (reg : List Byte) (d : Byte) : List Byte :=
  let f := gfAdd d (reg.headD 0)
  List.zipWith (fun r c => gfAdd r (gfMul f c)) (reg.tail ++ [0]) g.tail

/-- `rs_ec_lfsr(data, e)`, the equivalent shift-register form (41_poly_rs.md R142). -/
def rsEcLfsr (data : List Byte) (e : Nat) : List Byte :=
  data.foldl (lfsrStep (genPoly e)) (List.replicate e 0)

end Sys2Proof.Machine
end

