-- ==== Sys2Proof/Machine/Interleave.lean ====
section
/-! DEFINITION. The split of the data stream into RS blocks (42_interleave.md R160, R161), its checks (R162,
R163), the per-block encoding (R165) and the interleaving (R166). -/

namespace Sys2Proof.Machine

/-- The result of `groups` (42_interleave.md R161). -/
structure Groups where
  g1 : Nat
  g2 : Nat
  t1 : Nat
  t2 : Nat
  d1 : Nat
  d2 : Nat
  e1 : Nat
  e2 : Nat
  deriving DecidableEq, Repr

/-- `groups(T, D, B)`, for `B ≥ 1` and `D ≤ T` (42_interleave.md R161). -/
def groups (T D B : Nat) : Groups where
  g2 := T % B
  g1 := B - T % B
  t1 := T / B
  t2 := T / B + 1
  d1 := D / B
  d2 := D / B + 1
  e1 := T / B - D / B
  e2 := (T / B + 1) - (D / B + 1)

/-- The data-byte count and EC-byte count of block `k`: group 1 comes first (42_interleave.md R161). -/
def Groups.block (g : Groups) (k : Nat) : Nat × Nat :=
  if k < g.g1 then (g.d1, g.e1) else (g.d2, g.e2)

/-- `block_info(T, D, B, k)` (42_interleave.md R161). -/
def blockInfo (T D B k : Nat) : Nat × Nat := (groups T D B).block k

/-- The range checks that RS_BLOCKINFO and RS_INTERLEAVE share (42_interleave.md R168, R169). -/
def rangeChecks (T D B : Nat) : List (Bool × ErrCode) :=
  [ (B == 0, .blocksZero),
    (decide (T > Config.bufBytes), .totalRange),
    (decide (D > T), .dataRange) ]

/-- The source's three invariant checks (42_interleave.md R162). -/
def invariantChecks (T B : Nat) (g : Groups) : List (Bool × ErrCode) :=
  [ (g.e1 != g.e2, .ecMismatch),
    (g.g1 + g.g2 != B, .blockMismatch),
    ((g.d1 + g.e1) * g.g1 + (g.d2 + g.e2) * g.g2 != T, .totalMismatch) ]

/-- The checks before encoding (42_interleave.md R163). -/
def encodeChecks (D : Nat) (g : Groups) : List (Bool × ErrCode) :=
  [ (g.e1 == 0, .noEcBytes),
    (decide (g.e1 > Config.maxEc), .ecRange),
    (g.d1 == 0, .noDataBytes),
    (g.d1 * g.g1 + g.d2 * g.g2 != D, .dataMismatch) ]

/-- The source's BlockPair: the data and the EC codewords of one block (42_interleave.md R170). -/
structure BlockPair where
  data : List Byte
  ec : List Byte
  deriving DecidableEq, Repr

/-- The loop of `slice_and_encode` (42_interleave.md R165): `n` blocks from block `k` on, whose data
starts at `IN[offset]`. -/
def sliceFrom (s : State) (g : Groups) : Nat → Nat → Nat → List BlockPair
  | 0, _, _ => []
  | n + 1, k, offset =>
    let data := s.readBytes .inMem offset (g.block k).1
    ⟨data, rsEc data (g.block k).2⟩ :: sliceFrom s g n (k + 1) (offset + (g.block k).1)

/-- `slice_and_encode(T, D, B)` (42_interleave.md R165). -/
def sliceAndEncode (s : State) (T D B : Nat) : List BlockPair := sliceFrom s (groups T D B) B 0 0

/-- Byte `i` of every list that has one, in order (42_interleave.md R166). -/
def column (ls : List (List Byte)) (i : Nat) : List Byte := ls.filterMap (fun l => l[i]?)

/-- The length of the longest list. -/
def maxLength (ls : List (List Byte)) : Nat := ls.foldr (fun l n => max l.length n) 0

/-- Column after column, shorter lists skipped once exhausted (42_interleave.md R166). -/
def columnwise (ls : List (List Byte)) : List Byte :=
  (List.range (maxLength ls)).flatMap (column ls)

/-- `interleave(data, ec, B)`: the data columns, then the EC columns (42_interleave.md R166). -/
def interleave (blocks : List BlockPair) : List Byte :=
  columnwise (blocks.map BlockPair.data) ++ columnwise (blocks.map BlockPair.ec)

end Sys2Proof.Machine
end

