-- ==== Sys2Proof/Machine/InterleaveCommands.lean ====
section
/-! DEFINITION. The meanings of RS_BLOCKINFO and RS_INTERLEAVE (42_interleave.md R168, R169). -/

namespace Sys2Proof.Machine

/-- The checks of RS_BLOCKINFO in their order (42_interleave.md R168); those of R163 are not applied. -/
def blockinfoChecks (T D B K : Nat) : List (Bool × ErrCode) :=
  rangeChecks T D B ++ [(decide (K ≥ B), .blockIdRange)] ++ invariantChecks T B (groups T D B)

/-- RS_BLOCKINFO (42_interleave.md R168). -/
def execRsBlockinfo (s : State) : Host.Outcome State Fault Refusal :=
  s.checked (blockinfoChecks s.opT s.opD s.opB s.opK) fun _ =>
    .next (s.setResult (pairWord (blockInfo s.opT s.opD s.opB s.opK).1
      (blockInfo s.opT s.opD s.opB s.opK).2)).succeed

/-- The codeword sequence that RS_INTERLEAVE computes from the state (42_interleave.md R165, R166). -/
def interleavedOut (s : State) : List Byte := interleave (sliceAndEncode s s.opT s.opD s.opB)

/-- The checks of RS_INTERLEAVE before the encoding, in their order (42_interleave.md R169). -/
def interleaveChecks (T D B : Nat) : List (Bool × ErrCode) :=
  rangeChecks T D B ++ invariantChecks T B (groups T D B) ++ encodeChecks D (groups T D B)

/-- RS_INTERLEAVE (42_interleave.md R169): OUT[0..T-1] and RESULT. The last check is the source's final
count (R167). -/
def execRsInterleave (s : State) : Host.Outcome State Fault Refusal :=
  s.checked (interleaveChecks s.opT s.opD s.opB) fun _ =>
    let out := interleavedOut s
    s.checked [(out.length != s.opT, .interleaveMismatch)] fun _ =>
      .next ((s.writeBytes .outMem 0 out).setResult (natWord s.opT)).succeed

end Sys2Proof.Machine
end

