-- ==== Sys2Proof/Machine/PolyCommands.lean ====
section
/-! DEFINITION. The meanings of GEN_POLY, POLY_EVAL and RS_ENCODE (41_poly_rs.md R138, R139, R144). -/

namespace Sys2Proof.Machine

/-- GEN_POLY n (41_poly_rs.md R138): GEN[0..n], GEN_DEG and RESULT. -/
def execGenPoly (n : Byte) (s : State) : Host.Outcome State Fault Refusal :=
  .next (((s.writeBytes .genMem 0 (genPoly n.toNat)).setGenDeg n).setResult (zext32 n)).succeed

/-- The check of an input span `IN[OFF..OFF+D-1]` (41_poly_rs.md R139, R144); the sum does not wrap. -/
def spanCheck (off d : Nat) : Bool × ErrCode := (decide (off + d > Config.bufBytes), .spanRange)

/-- POLY_EVAL x (41_poly_rs.md R139). -/
def execPolyEval (x : Byte) (s : State) : Host.Outcome State Fault Refusal :=
  s.checked [(s.opD == 0, .noDataBytes), spanCheck s.opOff s.opD] fun _ =>
    .next (s.setResult (zext32 (polyEval (s.readBytes .inMem s.opOff s.opD) x))).succeed

/-- The checks of RS_ENCODE in their order (41_poly_rs.md R144). -/
def rsEncodeChecks (off d k : Nat) : List (Bool × ErrCode) :=
  [ (k == 0, .noEcBytes),
    (decide (k > Config.maxEc), .ecRange),
    (d == 0, .noDataBytes),
    spanCheck off d ]

/-- RS_ENCODE (41_poly_rs.md R144): ECM[0..K-1] and RESULT. -/
def execRsEncode (s : State) : Host.Outcome State Fault Refusal :=
  s.checked (rsEncodeChecks s.opOff s.opD s.opK) fun _ =>
    .next ((s.writeBytes .ecMem 0 (rsEc (s.readBytes .inMem s.opOff s.opD) s.opK)).setResult
      (natWord s.opK)).succeed

end Sys2Proof.Machine
end

