-- ==== Sys2Proof/Machine/Dispatch.lean ====
section
/-! DEFINITION. The meaning of every command, run at its completion on a word found legal
(70_reset_and_hazards.md R240). -/

namespace Sys2Proof.Machine

def exec (i : Instr) (s : State) : Host.Outcome State Fault Refusal :=
  match i with
  | .nop => Sys2Proof.Machine.execNop s
  | .gfAdd a bv => Sys2Proof.Machine.execGfAdd a bv s
  | .gfMul a bv => Sys2Proof.Machine.execGfMul a bv s
  | .gfInv a => Sys2Proof.Machine.execGfInv a s
  | .gfExp k => Sys2Proof.Machine.execGfExp k s
  | .gfLog a => Sys2Proof.Machine.execGfLog a s
  | .genPoly n => Sys2Proof.Machine.execGenPoly n s
  | .polyEval x => Sys2Proof.Machine.execPolyEval x s
  | .rsEncode => Sys2Proof.Machine.execRsEncode s
  | .rsBlockinfo => Sys2Proof.Machine.execRsBlockinfo s
  | .rsInterleave => Sys2Proof.Machine.execRsInterleave s

end Sys2Proof.Machine
end

