-- ==== Sys2Proof/Machine/Engine.lean ====
section
/-! DEFINITION. The completion step of the engine (70_reset_and_hazards.md R240), the choice between the
host and the engine (20_memory.md R71), and the placing of a command for the next step. -/

namespace Sys2Proof.Machine

/-- The completion step: decode the captured word, abort with ILLEGAL_CMD if it is illegal, and
otherwise run the command (70_reset_and_hazards.md R240, 30_encoding.md R87). -/
def complete (s : State) : Host.Outcome State Fault Refusal :=
  match decode s.cmd with
  | .command i => exec i s
  | .illegal _ => .next (s.abort .illegalCmd)

/-- The engine moves next: a command is pending, and the host steps that were to pass first have passed
or the host has no input (20_memory.md R71, 70_reset_and_hazards.md R244). -/
def State.engineTurn (s : State) : Bool := s.status.busy && (s.wait == 0 || s.inputs.isEmpty)

/-- The one step of the machine: the engine's completion, or the host's next input. -/
def stepOnce (s : State) : Host.Outcome State Fault Refusal :=
  if s.engineTurn then complete s else hostStep s

/-- The state in which `w` has just been accepted (10_state.md R31) and the engine moves next. -/
def State.placeCommand (s : State) (w : Word) : State :=
  { s with cmd := w, status := s.status.accepted, wait := 0 }

end Sys2Proof.Machine
end

