-- ==== Sys2Proof/Machine/Step.lean ====
section
/-! DEFINITION. The step of the machine, and the state whose next step runs a given command word. -/

namespace Sys2Proof.Machine

/-- One step (00_scope.md R15): the engine completes the pending command, or the host performs its next
input. -/
def step : State → Host.Outcome State Fault Refusal := stepOnce

/-- `s` with the command word of the `nbits` table bits `w` captured in CMD and pending, so that the very
next step completes it. The block fetches no instructions (20_memory.md R73): this stands for the
host's write of CMD. -/
def State.withFetchWord (s : State) (nbits w : Nat) : State := s.placeCommand (tableWord nbits w)

end Sys2Proof.Machine
end

