-- ==== Sys2Proof/Safety.lean ====
section
/-! DEFINITION. The terms in which claims about the machine are made: the invariant, agreement of the
operands of two states, and runs that never stop. -/

namespace Sys2Proof.Machine

/-- STATUS is in one of the combinations of 10_state.md R23 and R28: DONE and ERR are never 1 together,
neither is 1 while BUSY is 1, and ERRCODE is not 0 exactly when ERR is 1. -/
abbrev Status.consistent (st : Status) : Prop :=
  ¬(st.done = true ∧ st.err = true) ∧
  (st.busy = true → st.done = false ∧ st.err = false) ∧
  (st.errcode ≠ .none ↔ st.err = true)

/-- The invariant of the machine: memory is in its canonical form and lists addresses of the four
windows only, STATUS is consistent, and nothing is pending while the reset input is asserted. -/
abbrev State.Inv (s : State) : Prop :=
  Memory.wf s.mem ∧ Memory.mapped s.mem ∧ s.status.consistent ∧
  (s.rst = true → s.status.busy = false)

/-- The two states agree on everything a command reads: CMD, the ARG registers and IN_MEM
(10_state.md R46). -/
def State.SameOperands (s t : State) : Prop :=
  t.cmd = s.cmd ∧ t.argT = s.argT ∧ t.argD = s.argD ∧ t.argB = s.argB ∧ t.argK = s.argK ∧
  t.argOff = s.argOff ∧ ∀ i, i < 4096 → t.byteAt .inMem i = s.byteAt .inMem i

/-- The inputs hold no bus transaction that comes while the reset input is asserted; `rst` is its level
before them (70_reset_and_hazards.md R230: the host must not issue any). -/
def hostRespectsReset : Bool → List Input → Bool
  | _, [] => true
  | _, .rst level :: rest => hostRespectsReset level rest
  | rst, _ :: rest => !rst && hostRespectsReset rst rest

/-- STATUS after a command succeeded: DONE alone, with ACCESS_ERR as it was (60_exceptions.md R206). -/
def doneStatus (st : Status) : Status := ⟨false, true, false, st.accessErr, .none⟩

/-- STATUS after an abort with code `c`: ERR and the code, with ACCESS_ERR as it was (60_exceptions.md
R204). -/
def errStatus (st : Status) (c : ErrCode) : Status := ⟨false, false, true, st.accessErr, c⟩

/-- The operands on which RS_INTERLEAVE raises no error: those that pass the checks of 42_interleave.md
R169 that can fail. -/
abbrev InterleaveLegal (T D B : Nat) : Prop :=
  1 ≤ B ∧ T ≤ 4096 ∧ D ≤ T ∧ 1 ≤ T / B - D / B ∧ T / B - D / B ≤ 255 ∧ 1 ≤ D / B ∧ D % B = T % B

/-- Where the data of block `k` starts in IN_MEM (42_interleave.md R165). -/
def blockStart (T D B k : Nat) : Nat :=
  if k < B - T % B then k * (D / B)
  else (B - T % B) * (D / B) + (k - (B - T % B)) * (D / B + 1)

/-- How many data bytes block `k` has (42_interleave.md R161). -/
def blockSize (T D B k : Nat) : Nat := if k < B - T % B then D / B else D / B + 1

/-- The next input of the host resets the registers: a change of the reset input, or a write of CTRL
with bit 0 set (10_state.md R29, 70_reset_and_hazards.md R230). -/
def State.nextInputResets (s : State) : Prop :=
  (∃ level, s.inputs.head? = some (.rst level)) ∨
  (∃ w, s.inputs.head? = some (.write 0x0008 w 0b1111) ∧ w.getLsbD 0 = true)

/-- The next input of the host is a write of CTRL with CLR = 1 (10_state.md R29). -/
def State.nextInputClears (s : State) : Prop :=
  ∃ w, s.inputs.head? = some (.write 0x0008 w 0b1111) ∧ w.getLsbD 1 = true

/-- The next input of the host is a write of CMD that an idle block accepts (10_state.md R31). -/
def State.nextInputAccepts (s : State) : Prop :=
  s.status.busy = false ∧ ∃ w, s.inputs.head? = some (.write 0x0010 w 0b1111)

/-- A write of an aligned word that passes every check but the busy rule: a whole write of CMD or an ARG
register, or any write of an IN_MEM word (20_memory.md R67). -/
abbrev LockedWrite (addr : BitVec 16) (strb : BitVec 4) : Prop :=
  addr.toNat % 4 = 0 ∧
  ((addr = 0x0010 ∨ 0x0018 ≤ addr.toNat ∧ addr.toNat ≤ 0x0028) ∧ strb = 0b1111 ∨
    0x1000 ≤ addr.toNat ∧ addr.toNat < 0x2000)

/-- The next input of the host is a write that the busy rule refuses (20_memory.md R67). -/
def State.nextInputRefused (s : State) : Prop :=
  s.status.busy = true ∧
  ∃ addr w strb, s.inputs.head? = some (.write addr w strb) ∧ LockedWrite addr strb

/-- The next input of the host is a write to an address of `lo .. hi - 1`. -/
def State.nextInputWrites (s : State) (lo hi : Nat) : Prop :=
  ∃ addr w strb, s.inputs.head? = some (.write addr w strb) ∧ lo ≤ addr.toNat ∧ addr.toNat < hi

/-- A run of `k` steps that meets no fault and no refusal. -/
def SafeRun (k : Nat) (s : State) : Prop := ∃ t, Host.Core.run Sys2Proof.core k s = .next t

end Sys2Proof.Machine
end

