-- ==== Sys2Proof/Certificates/Slice0/Obligations.lean ====
section
/-! DEFINITION. The statements about the model, from the numbered rules of spec/. Each docstring names the
rule or the section it formalises; where a clause is the model's own choice, it names the log entry. -/

open Sys2Proof Sys2Proof.Machine

/-! ### Reset (10_state.md section 9, 70_reset_and_hazards.md section 1) -/

/-- R230: after hardware reset, and when the reset input is asserted and released, every register reads
its reset value, `irq` is 0 and no command is pending; and while the input stays asserted no step takes
a register away from that value. -/
def Obligations.HardwareResetClearsRegisters : Prop :=
  (∀ r : Reg, State.reset.regWord r = if r = .id then 0x52534531#32 else 0) ∧
  State.reset.irq = false ∧ State.reset.status.busy = false ∧
  (∀ (s : State) (level : Bool), level = true ∨ s.rst = true →
    (∀ r : Reg, (s.setRst level).regWord r = if r = .id then 0x52534531#32 else 0) ∧
    (s.setRst level).irq = false ∧ (s.setRst level).status.busy = false ∧
    (s.setRst level).rst = level) ∧
  (∀ s t : State, s.rst = true → s.status.busy = false → step s = .next t →
    (∀ r : Reg, t.regWord r = s.regWord r) ∨
    (∀ r : Reg, t.regWord r = if r = .id then 0x52534531#32 else 0))

/-- R233: a write of CTRL with bit 0 set is accepted, busy or not; every register takes its reset value,
nothing is pending, `irq` is 0, and every memory byte stays. -/
def Obligations.SoftResetKeepsMemories : Prop :=
  ∀ (s : State) (w : Word), w.getLsbD 0 = true →
    ∃ u, busWrite 0x0008 w 0b1111 s = (u, .ok) ∧
      (∀ r : Reg, u.regWord r = if r = .id then 0x52534531#32 else 0) ∧
      u.status.busy = false ∧ u.irq = false ∧ ∀ a, u.byteAtAddr a = s.byteAtAddr a

/-- R231 with log entry 2 (the model's choice of draw): a hardware reset leaves every memory byte at the
free value drawn for the new reset. -/
def Obligations.HardwareResetDrawsMemories : Prop :=
  ∀ (s : State) (level : Bool), level = true ∨ s.rst = true →
    ∀ a, (s.setRst level).byteAtAddr a = Config.resetByte (s.epoch + 1) a

/-- The invariant of the machine holds after hardware reset. -/
def Obligations.ResetMeetsInvariant : Prop := State.Inv State.reset

/-! ### Encoding (30_encoding.md) -/

/-- R86: words written out from the formats R81 to R84 decode to their commands. -/
def Obligations.SampleWordsDecode : Prop :=
  decode 0x00000000 = .command .nop ∧
  decode 0x00CA5301 = .command (.gfAdd 0x53 0xCA) ∧
  decode 0x00028002 = .command (.gfMul 0x80 0x02) ∧
  decode 0x00000210 = .command (.genPoly 2) ∧
  decode 0x00000020 = .command .rsEncode ∧
  decode 0x00000022 = .command .rsInterleave ∧
  decode 0x00000023 = .illegal .reservedOpcode ∧
  decode 0x00010003 = .illegal .nonzeroMustBeZero

/-- Decode and encode agree (30_encoding.md sections 1 and 3): decoding the word of a command gives the
command, with every operand at every value, and a word that decodes to a command is that command's
word, so each command has one word. -/
def Obligations.DecodeAndEncodeAgree : Prop :=
  (∀ i : Instr, decode (encode i) = .command i) ∧
  ∀ (w : Word) (i : Instr), decode w = .command i → encode i = w

/-- R86, R88: the decoder accepts exactly the words that select a row of the opcode map; the reserved
opcodes select none; every other word is accepted by the block and then aborted with ILLEGAL_CMD, with
nothing else written; and only the word 0 is a NOP. -/
def Obligations.DecoderMeetsOpcodeMap : Prop :=
  ∀ w : Word,
    (wellFormedWord w = true ↔ ∃ i, decode w = .command i) ∧
    (0x06 ≤ w.toNat % 256 ∧ w.toNat % 256 ≤ 0x0F ∨ 0x12 ≤ w.toNat % 256 ∧ w.toNat % 256 ≤ 0x1F ∨
      0x23 ≤ w.toNat % 256 → wellFormedWord w = false) ∧
    (wellFormedWord w = false →
      (∀ s : State, s.status.busy = false → (busWrite 0x0010 w 0b1111 s).2 = .ok) ∧
      ∀ s : State, s.cmd = w →
        complete s = .next { s with status := errStatus s.status .illegalCmd }) ∧
    (decode w = .command .nop → w = 0)

/-! ### GF(256) (40_gf_arith.md section 1) -/

/-- R102, R103: the printed antilog table is the one the recurrence gives, with EXP[0] = EXP[255] = 1;
LOG is the inverse of EXP on 0..254, is defined on every nonzero byte and not on 0. -/
def Obligations.LogAndExpTables : Prop :=
  (∀ i, i < 256 → (expOf i).toNat = expRec i) ∧ expOf 0 = 1 ∧ expOf 255 = 1 ∧
  (∀ i, i < 255 → logOf (expOf i) = some i) ∧
  (∀ a : Byte, a ≠ 0 → ∃ i, i ≤ 254 ∧ logOf a = some i ∧ expOf i = a) ∧
  logOf 1 = some 0 ∧ logOf 0 = none

/-- R104: multiplication is 0 when an operand is 0, goes through the tables otherwise, and equals the
product of the two polynomials over GF(2) reduced modulo PRIM_POLY. -/
def Obligations.GfMulIsReducedProduct : Prop :=
  ∀ a b : Byte,
    (a = 0 ∨ b = 0 → gfMul a b = 0) ∧
    (∀ i j, logOf a = some i → logOf b = some j → gfMul a b = expOf ((i + j) % 255)) ∧
    gfMul a b = gfMulPoly a b

/-- R105: the inverse is not defined on 0; on every other byte it is EXP[255 - LOG[a]], and the product
with it is 1. -/
def Obligations.GfInverseMultipliesToOne : Prop :=
  gfInv 0 = none ∧ gfInv 1 = some 1 ∧
  ∀ a : Byte, a ≠ 0 → ∃ i, logOf a = some i ∧ gfInv a = some (expOf (255 - i)) ∧
    gfMul a (expOf (255 - i)) = 1

/-- R107: the laws of the field. -/
def Obligations.GfFieldLaws : Prop :=
  (∀ a b : Byte, gfAdd a b = gfAdd b a ∧ gfMul a b = gfMul b a) ∧
  (∀ a b c : Byte, gfAdd (gfAdd a b) c = gfAdd a (gfAdd b c) ∧
    gfMul (gfMul a b) c = gfMul a (gfMul b c) ∧
    gfMul a (gfAdd b c) = gfAdd (gfMul a b) (gfMul a c)) ∧
  (∀ a : Byte, gfMul a 1 = a ∧ gfMul a 0 = 0) ∧
  (∀ a b : Byte, gfMul a b = 0 ↔ a = 0 ∨ b = 0) ∧
  (∀ i j, i < 256 → j < 256 → gfMul (expOf i) (expOf j) = expOf ((i + j) % 255)) ∧
  (∀ a b : Byte, gfInv a = some b → gfInv b = some a)

/-! ### Scalar commands (40_gf_arith.md section 2) -/

/-- A word whose OP is `op` and that has a 1 at or above bit `lo` is aborted with ILLEGAL_CMD, and
nothing but STATUS changes. -/
def IllegalFrom (op : Byte) (lo : Nat) : Prop :=
  ∀ s : State, s.cmd.toNat % 256 = op.toNat → s.cmd.toNat / 2 ^ lo ≠ 0 →
    complete s = .next { s with status := errStatus s.status .illegalCmd }

/-- R110: NOP sets DONE and leaves everything else; run after an accepted command word 0, it also shows
that the acceptance cleared an earlier error and kept ACCESS_ERR. -/
def Obligations.NopSetsDoneOnly : Prop :=
  decode 0x00000000 = .command .nop ∧ IllegalFrom 0x00 8 ∧
  (∀ s : State, exec .nop s = .next { s with status := doneStatus s.status }) ∧
  (∀ s : State, ∃ u, complete (s.accept 0) = .next u ∧ u.status = doneStatus s.status ∧
    u.result = s.result ∧ (s.status.accessErr = false → u.status.word = 0x00000002#32))

/-- R111: GF_ADD writes the exclusive OR of its operands to RESULT. -/
def Obligations.GfAddWritesXor : Prop :=
  (∀ w : Word, w.extractLsb' 0 8 = 0x01#8 → w.extractLsb' 24 8 = 0#8 →
    decode w = .command (.gfAdd (w.extractLsb' 8 8) (w.extractLsb' 16 8))) ∧
  IllegalFrom 0x01 24 ∧
  (∀ (a b : Byte) (s : State), exec (.gfAdd a b) s =
    .next { s with result := (a ^^^ b).setWidth 32, status := doneStatus s.status }) ∧
  (∀ a : Byte, a ^^^ a = 0 ∧ a ^^^ 0 = a ∧ 0 ^^^ a = a) ∧
  decode 0x00CA5301 = .command (.gfAdd 0x53 0xCA) ∧ 0x53#8 ^^^ 0xCA#8 = 0x99#8

/-- R112: GF_MUL writes the product reduced modulo PRIM_POLY to RESULT. -/
def Obligations.GfMulWritesReducedProduct : Prop :=
  (∀ w : Word, w.extractLsb' 0 8 = 0x02#8 → w.extractLsb' 24 8 = 0#8 →
    decode w = .command (.gfMul (w.extractLsb' 8 8) (w.extractLsb' 16 8))) ∧
  IllegalFrom 0x02 24 ∧
  (∀ (a b : Byte) (s : State), exec (.gfMul a b) s =
    .next { s with result := (gfMulPoly a b).setWidth 32, status := doneStatus s.status }) ∧
  (∀ a : Byte, gfMulPoly a 0 = 0 ∧ gfMulPoly 0 a = 0) ∧
  gfMulPoly 0x80 0x02 = 0x1D#8 ∧ gfMulPoly 0x53 0xCA = 0x8F#8 ∧ gfMulPoly 0xFF 0xFF = 0xE2#8 ∧
  decode 0x00028002 = .command (.gfMul 0x80 0x02)

/-- R113: GF_INV writes the byte whose product with the operand is 1, and aborts with GF_DOMAIN on 0. -/
def Obligations.GfInvWritesInverse : Prop :=
  (∀ w : Word, w.extractLsb' 0 8 = 0x03#8 → w.extractLsb' 16 16 = 0#16 →
    decode w = .command (.gfInv (w.extractLsb' 8 8))) ∧
  IllegalFrom 0x03 16 ∧
  (∀ s : State, exec (.gfInv 0) s = .next { s with status := errStatus s.status .gfDomain }) ∧
  (∀ (a : Byte) (s : State), a ≠ 0 → ∃ r : Byte, gfInv a = some r ∧ gfMul a r = 1 ∧
    exec (.gfInv a) s =
      .next { s with result := r.setWidth 32, status := doneStatus s.status }) ∧
  gfInv 0x01 = some 0x01#8 ∧ gfInv 0x02 = some 0x8E#8 ∧ gfInv 0x8E = some 0x02#8 ∧
  decode 0x00005303 = .command (.gfInv 0x53) ∧ gfInv 0x53 = some 0x8C#8

/-- R114: GF_EXP writes the power of α that the recurrence of R102 gives; the result is never 0. -/
def Obligations.GfExpWritesPower : Prop :=
  (∀ w : Word, w.extractLsb' 0 8 = 0x04#8 → w.extractLsb' 16 16 = 0#16 →
    decode w = .command (.gfExp (w.extractLsb' 8 8))) ∧
  IllegalFrom 0x04 16 ∧
  (∀ (k : Byte) (s : State), expRec k.toNat ≠ 0 ∧ exec (.gfExp k) s =
    .next { s with result := BitVec.ofNat 32 (expRec k.toNat), status := doneStatus s.status }) ∧
  expRec 0 = 0x01 ∧ expRec 255 = 0x01 ∧ expRec 8 = 0x1D ∧ expRec 25 = 0x03 ∧
  decode 0x00001904 = .command (.gfExp 25)

/-- R115: GF_LOG writes the exponent 0..254 whose power of α is the operand, and aborts with GF_DOMAIN
on 0. -/
def Obligations.GfLogWritesExponent : Prop :=
  (∀ w : Word, w.extractLsb' 0 8 = 0x05#8 → w.extractLsb' 16 16 = 0#16 →
    decode w = .command (.gfLog (w.extractLsb' 8 8))) ∧
  IllegalFrom 0x05 16 ∧
  (∀ s : State, exec (.gfLog 0) s = .next { s with status := errStatus s.status .gfDomain }) ∧
  (∀ (a : Byte) (s : State), a ≠ 0 → ∃ i, i ≤ 254 ∧ logOf a = some i ∧ expOf i = a ∧
    exec (.gfLog a) s =
      .next { s with result := BitVec.ofNat 32 i, status := doneStatus s.status }) ∧
  logOf 0x01 = some 0 ∧ logOf 0x8E = some 254 ∧ logOf 0xFF = some 175 ∧
  decode 0x0000FF05 = .command (.gfLog 0xFF)

/-! ### Polynomials (41_poly_rs.md section 1) -/

/-- R131: two lists have the same normal form exactly when they have the same coefficients, and the
normal form begins with a nonzero coefficient or is the zero polynomial. An empty list, which is no
polynomial of the spec, counts as the zero polynomial (log entry 12). -/
def Obligations.NormalFormIdentifiesPolynomial : Prop :=
  (∀ p q : List Byte, norm p = norm q ↔ ∀ k, coef p k = coef q k) ∧
  (∀ p : List Byte, norm p = [0] ∨ ∃ c r, norm p = c :: r ∧ c ≠ 0) ∧
  (∀ p : List Byte, ∀ k, deg p < k → coef p k = 0)

/-- R132, section 1: the sum has the exclusive OR of the coefficients, in normal form. An empty list, which
is no polynomial of the spec, counts as the zero polynomial (log entry 12). -/
def Obligations.PolyAddAddsCoefficients : Prop :=
  ∀ p q : List Byte, (∀ k, coef (polyAdd p q) k = coef p k ^^^ coef q k) ∧
    norm (polyAdd p q) = polyAdd p q

/-- R133: the coefficient of x^k of the product is the sum of p_i·q_(k-i), the product is in normal
form, and the product with the zero polynomial is the zero polynomial. -/
def Obligations.PolyMulConvolves : Prop :=
  (∀ p q : List Byte, p ≠ [] → q ≠ [] →
    (∀ k, coef (polyMul p q) k =
      ((List.range (k + 1)).map (fun i => gfMul (coef p i) (coef q (k - i)))).foldr gfAdd 0) ∧
    norm (polyMul p q) = polyMul p q) ∧
  (∀ p : List Byte, p ≠ [] → polyMul p [0] = [0] ∧ polyMul [0] p = [0])

/-- R135: the remainder by a nonzero divisor has a smaller degree or is zero, differs from the dividend
by a multiple of the divisor, and is the only such polynomial in normal form. -/
def Obligations.PolyModIsTheRemainder : Prop :=
  ∀ p g : List Byte, norm g ≠ [0] →
    (deg (polyMod p g) < deg g ∨ polyMod p g = [0]) ∧
    (∃ q, q ≠ [] ∧ norm p = polyAdd (polyMul q g) (polyMod p g)) ∧
    ∀ q r : List Byte, q ≠ [] → norm r = r → (deg r < deg g ∨ r = [0]) →
      norm p = polyAdd (polyMul q g) r → r = polyMod p g

/-- R136, section 1: Horner's rule, the value at 0 and at 1, and leading zeros. The rule is about lists of at
least one byte; the value 0 of the empty list is the model's (log entry 12). -/
def Obligations.PolyEvalIsHorner : Prop :=
  (∀ x : Byte, polyEval [] x = 0) ∧
  (∀ (p : List Byte) (c x : Byte), polyEval (p ++ [c]) x = gfMul (polyEval p x) x ^^^ c) ∧
  (∀ (p : List Byte) (c : Byte), polyEval (p ++ [c]) 0 = c) ∧
  (∀ p : List Byte, polyEval p 1 = p.foldl (fun a c => a ^^^ c) 0) ∧
  (∀ (p : List Byte) (n : Nat) (x : Byte), polyEval (List.replicate n 0 ++ p) x = polyEval p x) ∧
  (∀ (p : List Byte) (x : Byte), polyEval (norm p) x = polyEval p x)

/-! ### Generator and EC bytes (41_poly_rs.md sections 2 and 3) -/

/-- R130: the generator of degree n is monic with n + 1 coefficients, and its value at every x is the
product of x + α^i over i = 0..n-1; so its roots are α^0 .. α^(n-1). -/
def Obligations.GeneratorIsProductOfRoots : Prop :=
  ∀ n, n ≤ 255 →
    (genPoly n).length = n + 1 ∧ (genPoly n).head? = some 1 ∧
    (∀ x : Byte, polyEval (genPoly n) x =
      ((List.range n).map (fun i => x ^^^ expOf i)).foldl gfMul 1) ∧
    (∀ x : Byte, polyEval (genPoly n) x = 0 ↔ ∃ i, i < n ∧ expOf i = x)

/-- R141: EC byte i is the coefficient of x^(e-1-i) of the remainder of M(x)·x^e divided by g_e(x), and
there are exactly e bytes. -/
def Obligations.EcBytesAreRemainderCoefficients : Prop :=
  ∀ (data : List Byte) (e : Nat), data ≠ [] → 1 ≤ e → e ≤ 255 →
    (rsEc data e).length = e ∧
    ∀ i, i < e → (rsEc data e)[i]? =
      some (coef (polyMod (data ++ List.replicate e 0) (genPoly e)) (e - 1 - i))

/-- R142: the shift register gives the same bytes as the long division, for every input. -/
def Obligations.ShiftRegisterMeetsLongDivision : Prop :=
  ∀ (data : List Byte) (e : Nat), data ≠ [] → 1 ≤ e → e ≤ 255 → rsEcLfsr data e = rsEc data e

/-- R143, first two properties: a codeword is divisible by the generator and is 0 at its roots. -/
def Obligations.CodewordVanishesAtRoots : Prop :=
  ∀ (data : List Byte) (e : Nat), data ≠ [] → 1 ≤ e → e ≤ 255 →
    polyMod (data ++ rsEc data e) (genPoly e) = [0] ∧
    ∀ i, i < e → polyEval (data ++ rsEc data e) (expOf i) = 0

/-- R143, last two properties: the EC bytes are linear in the data, zero data gives zeros, and leading
zero data bytes do not change them. With one EC byte it is the exclusive OR of the data (R144). -/
def Obligations.EcBytesAreLinear : Prop :=
  (∀ (a b : List Byte) (e : Nat), a ≠ [] → a.length = b.length → 1 ≤ e → e ≤ 255 →
    rsEc (List.zipWith (· ^^^ ·) a b) e = List.zipWith (· ^^^ ·) (rsEc a e) (rsEc b e)) ∧
  (∀ n e, 1 ≤ n → 1 ≤ e → e ≤ 255 → rsEc (List.replicate n 0) e = List.replicate e 0) ∧
  (∀ (data : List Byte) (e : Nat), data ≠ [] → 1 ≤ e → e ≤ 255 →
    rsEc (0 :: data) e = rsEc data e) ∧
  (∀ data : List Byte, data ≠ [] → rsEc data 1 = [data.foldl (fun a c => a ^^^ c) 0])

/-- GEN_POLY n (41_poly_rs.md section 2): GEN[0..n] takes the coefficients of the generator, highest
degree first, GEN_DEG and RESULT take n, and no other byte or register changes. -/
def Obligations.GenPolyWritesGenerator : Prop :=
  IllegalFrom 0x10 16 ∧
  ∀ (n : Byte) (s : State), ∃ t, exec (.genPoly n) s = .next t ∧
    t = { s with
      mem := t.mem
      genDeg := n
      result := n.setWidth 32
      status := doneStatus s.status } ∧
    t.byteAt .genMem 0 = 1 ∧
    (∀ i, i ≤ n.toNat → t.byteAt .genMem i = coef (genPoly n.toNat) (n.toNat - i)) ∧
    (∀ a, a < 0x3000 ∨ 0x3000 + n.toNat < a → t.byteAtAddr a = s.byteAtAddr a)

/-- POLY_EVAL x (41_poly_rs.md section 2): the two errors in their order, and the value of the
polynomial IN[OFF..OFF+D-1] at x; no memory byte changes. -/
def Obligations.PolyEvalCommandEvaluates : Prop :=
  IllegalFrom 0x11 16 ∧
  ∀ (x : Byte) (s : State),
    (s.argD = 0 →
      exec (.polyEval x) s = .next { s with status := errStatus s.status .noDataBytes }) ∧
    (s.argD ≠ 0 → s.argOff.toNat + s.argD.toNat > 4096 →
      exec (.polyEval x) s = .next { s with status := errStatus s.status .spanRange }) ∧
    (s.argD ≠ 0 → s.argOff.toNat + s.argD.toNat ≤ 4096 →
      exec (.polyEval x) s = .next { s with
        result := (polyEval (s.readBytes .inMem s.argOff.toNat s.argD.toNat) x).setWidth 32
        status := doneStatus s.status }) ∧
    (s.argD ≠ 0 → s.argOff.toNat + s.argD.toNat ≤ 4096 →
      ∃ t, exec (.polyEval 0) s = .next t ∧
        t.result = (s.byteAt .inMem (s.argOff.toNat + s.argD.toNat - 1)).setWidth 32)

/-- RS_ENCODE (41_poly_rs.md section 3): the four errors in their order; otherwise ECM[0..K-1] takes the
EC bytes of IN[OFF..OFF+D-1], as the shift register of R142 computes them, RESULT takes K, and no other
byte or register changes. -/
def Obligations.RsEncodeWritesEcBytes : Prop :=
  IllegalFrom 0x20 8 ∧
  ∀ s : State,
    (s.argK = 0 → exec .rsEncode s = .next { s with status := errStatus s.status .noEcBytes }) ∧
    (255 < s.argK.toNat →
      exec .rsEncode s = .next { s with status := errStatus s.status .ecRange }) ∧
    (s.argK ≠ 0 → s.argK.toNat ≤ 255 → s.argD = 0 →
      exec .rsEncode s = .next { s with status := errStatus s.status .noDataBytes }) ∧
    (s.argK ≠ 0 → s.argK.toNat ≤ 255 → s.argD ≠ 0 → s.argOff.toNat + s.argD.toNat > 4096 →
      exec .rsEncode s = .next { s with status := errStatus s.status .spanRange }) ∧
    (s.argK ≠ 0 → s.argK.toNat ≤ 255 → s.argD ≠ 0 → s.argOff.toNat + s.argD.toNat ≤ 4096 →
      ∃ t, exec .rsEncode s = .next t ∧
        t = { s with
          mem := t.mem
          result := s.argK.setWidth 32
          status := doneStatus s.status } ∧
        t.readBytes .ecMem 0 s.argK.toNat =
          rsEcLfsr (s.readBytes .inMem s.argOff.toNat s.argD.toNat) s.argK.toNat ∧
        (∀ a, a < 0x3100 ∨ 0x3100 + s.argK.toNat ≤ a → t.byteAtAddr a = s.byteAtAddr a))

/-! ### Block split and interleaving (42_interleave.md) -/

/-- R162: with the formulas of R161 none of the three invariant checks can fail, for any T, D, B with
B ≥ 1 and D ≤ T. -/
def Obligations.GroupsReconstructTotal : Prop :=
  ∀ T D B : Nat, 1 ≤ B → D ≤ T →
    (groups T D B).e1 = (groups T D B).e2 ∧
    (groups T D B).g1 + (groups T D B).g2 = B ∧
    ((groups T D B).d1 + (groups T D B).e1) * (groups T D B).g1 +
      ((groups T D B).d2 + (groups T D B).e2) * (groups T D B).g2 = T ∧
    firstError (invariantChecks T B (groups T D B)) = none

/-- The split of 42_interleave.md section 2: g1 ≥ 1, block 0 is in group 1, e2 = e1, and the data spans
sum to D exactly when D % B = T % B. -/
def Obligations.DataSpansSumToD : Prop :=
  ∀ T D B : Nat, 1 ≤ B → D ≤ T →
    1 ≤ (groups T D B).g1 ∧
    blockInfo T D B 0 = (D / B, T / B - D / B) ∧
    (((List.range B).map (fun k => (blockInfo T D B k).1)).sum = D ↔ D % B = T % B) ∧
    ((List.range B).map (fun k => (blockInfo T D B k).1 + (blockInfo T D B k).2)).sum = T

/-- RS_BLOCKINFO (42_interleave.md section 4): the four errors that can occur, in their order, and
otherwise the sizes of block K in RESULT; no memory byte changes. -/
def Obligations.RsBlockinfoReportsSizes : Prop :=
  IllegalFrom 0x21 8 ∧
  ∀ (s : State) (T D B K : Nat), T = s.argT.toNat → D = s.argD.toNat → B = s.argB.toNat →
    K = s.argK.toNat →
    (B = 0 →
      exec .rsBlockinfo s = .next { s with status := errStatus s.status .blocksZero }) ∧
    (B ≠ 0 → 4096 < T →
      exec .rsBlockinfo s = .next { s with status := errStatus s.status .totalRange }) ∧
    (B ≠ 0 → T ≤ 4096 → T < D →
      exec .rsBlockinfo s = .next { s with status := errStatus s.status .dataRange }) ∧
    (B ≠ 0 → T ≤ 4096 → D ≤ T → B ≤ K →
      exec .rsBlockinfo s = .next { s with status := errStatus s.status .blockIdRange }) ∧
    (T ≤ 4096 → D ≤ T → K < B →
      exec .rsBlockinfo s = .next { s with
        result := BitVec.ofNat 32 ((T / B - D / B) * 65536 + blockSize T D B K)
        status := doneStatus s.status })

/-- RS_INTERLEAVE, errors (42_interleave.md section 4): the errors that can occur, in their order. -/
def Obligations.RsInterleaveAbortsInOrder : Prop :=
  IllegalFrom 0x22 8 ∧
  ∀ (s : State) (T D B : Nat), T = s.argT.toNat → D = s.argD.toNat → B = s.argB.toNat →
    (B = 0 →
      exec .rsInterleave s = .next { s with status := errStatus s.status .blocksZero }) ∧
    (B ≠ 0 → 4096 < T →
      exec .rsInterleave s = .next { s with status := errStatus s.status .totalRange }) ∧
    (B ≠ 0 → T ≤ 4096 → T < D →
      exec .rsInterleave s = .next { s with status := errStatus s.status .dataRange }) ∧
    (B ≠ 0 → T ≤ 4096 → D ≤ T → T / B = D / B →
      exec .rsInterleave s = .next { s with status := errStatus s.status .noEcBytes }) ∧
    (B ≠ 0 → T ≤ 4096 → D ≤ T → 255 < T / B - D / B →
      exec .rsInterleave s = .next { s with status := errStatus s.status .ecRange }) ∧
    (B ≠ 0 → T ≤ 4096 → D ≤ T → 1 ≤ T / B - D / B → T / B - D / B ≤ 255 → D < B →
      exec .rsInterleave s = .next { s with status := errStatus s.status .noDataBytes }) ∧
    (T ≤ 4096 → D ≤ T → 1 ≤ T / B - D / B → T / B - D / B ≤ 255 → 1 ≤ D / B →
      D % B ≠ T % B →
      exec .rsInterleave s = .next { s with status := errStatus s.status .dataMismatch })

/-- RS_INTERLEAVE, success (42_interleave.md sections 3 and 4): OUT[0..T-1] takes the data bytes and the
EC bytes at the positions of R166, RESULT takes T, and no other byte or register changes. -/
def Obligations.RsInterleaveWritesCodewords : Prop :=
  ∀ (s : State) (T D B : Nat), T = s.argT.toNat → D = s.argD.toNat → B = s.argB.toNat →
    InterleaveLegal T D B →
    ∃ t, exec .rsInterleave s = .next t ∧
      t = { s with
        mem := t.mem
        result := s.argT.setWidth 32
        status := doneStatus s.status } ∧
      (∀ k i, k < B → i < D / B →
        t.byteAt .outMem (i * B + k) = s.byteAt .inMem (blockStart T D B k + i)) ∧
      (∀ k, B - T % B ≤ k → k < B →
        t.byteAt .outMem (D / B * B + (k - (B - T % B))) =
          s.byteAt .inMem (blockStart T D B k + D / B)) ∧
      (∀ k i, k < B → i < T / B - D / B →
        (rsEc (s.readBytes .inMem (blockStart T D B k) (blockSize T D B k)) (T / B - D / B))[i]? =
          some (t.byteAt .outMem (D + i * B + k))) ∧
      (∀ a, a < 0x2000 ∨ 0x2000 + T ≤ a → t.byteAtAddr a = s.byteAtAddr a)

/-- R145: RS_ENCODE on the data span of block k writes the EC bytes that RS_INTERLEAVE emits for it. -/
def Obligations.EncodeAgreesWithInterleave : Prop :=
  ∀ (s : State) (T D B k : Nat), T = s.argT.toNat → D = s.argD.toNat → B = s.argB.toNat →
    InterleaveLegal T D B → k < B →
    ∃ t u, exec .rsInterleave s = .next t ∧
      exec .rsEncode { s with
        argOff := BitVec.ofNat 16 (blockStart T D B k)
        argD := BitVec.ofNat 16 (blockSize T D B k)
        argK := BitVec.ofNat 16 (T / B - D / B) } = .next u ∧
      ∀ i, i < T / B - D / B → u.byteAt .ecMem i = t.byteAt .outMem (D + i * B + k)

/-- 93_implementation_defined.md U14: the bytes of IN_MEM from D on, the other registers and the other
memories do not reach the output of RS_INTERLEAVE. -/
def Obligations.InterleaveReadsDataOnly : Prop :=
  ∀ s s' t t' : State, s'.argT = s.argT → s'.argD = s.argD → s'.argB = s.argB →
    (∀ i, i < s.argD.toNat → s'.byteAt .inMem i = s.byteAt .inMem i) →
    exec .rsInterleave s = .next t → exec .rsInterleave s' = .next t' →
    t'.status.errcode = t.status.errcode ∧
    (t.status.done = true →
      t'.result = t.result ∧
      ∀ i, i < s.argT.toNat → t'.byteAt .outMem i = t.byteAt .outMem i)

/-! ### Errors and completion, over all commands (60_exceptions.md, 20_memory.md section 5) -/

/-- R204: when a command ends with ERR = 1, the state is the one before it with the four STATUS fields
changed, and nothing else. -/
def Obligations.AbortChangesStatusOnly : Prop :=
  (∀ (s : State) (c : ErrCode), s.abort c = { s with status := errStatus s.status c }) ∧
  ∀ (i : Instr) (s t : State), exec i s = .next t → t.status.err = true →
    t = { s with status := errStatus s.status t.status.errcode } ∧ t.status.errcode ≠ .none

/-- Every command completes: it answers a next state with BUSY = 0 in which exactly one of DONE and ERR
is 1; and no command changes CMD, an ARG register, IRQ_EN, ACCESS_ERR or a byte of IN_MEM. -/
def Obligations.CommandsKeepOperands : Prop :=
  ∀ (i : Instr) (s : State), ∃ t, exec i s = .next t ∧
    t.status.busy = false ∧ (t.status.done = true ↔ t.status.err = false) ∧
    t.status.accessErr = s.status.accessErr ∧ t.irqEn = s.irqEn ∧
    t.cmd = s.cmd ∧ t.argT = s.argT ∧ t.argD = s.argD ∧ t.argB = s.argB ∧ t.argK = s.argK ∧
    t.argOff = s.argOff ∧ t.rst = s.rst ∧ t.inputs = s.inputs ∧
    (∀ a, a < 0x2000 → t.byteAtAddr a = s.byteAtAddr a)

/-- The commands that write no memory change no memory byte and not GEN_DEG (10_state.md section 9):
all but GEN_POLY, RS_ENCODE and RS_INTERLEAVE; and only GEN_POLY changes GEN_DEG. -/
def Obligations.OtherCommandsKeepMemories : Prop :=
  ∀ (i : Instr) (s t : State), exec i s = .next t →
    ((∀ n, i ≠ .genPoly n) → t.genDeg = s.genDeg) ∧
    ((∀ n, i ≠ .genPoly n) → i ≠ .rsEncode → i ≠ .rsInterleave →
      t.mem = s.mem ∧ ∀ a, t.byteAtAddr a = s.byteAtAddr a)

/-- 42_interleave.md R162, R167 (93 U13): no command ends with one of the codes 11, 12, 13 and 15. -/
def Obligations.InvariantCodesUnreachable : Prop :=
  ∀ (i : Instr) (s t : State), exec i s = .next t →
    t.status.errcode ≠ .ecMismatch ∧ t.status.errcode ≠ .blockMismatch ∧
    t.status.errcode ≠ .totalMismatch ∧ t.status.errcode ≠ .interleaveMismatch

/-! ### The bus (20_memory.md) -/

/-- R61: a transaction that is not aligned is refused without effect. -/
def Obligations.MisalignedAccessRefused : Prop :=
  ∀ (addr : BitVec 16) (w : Word) (strb : BitVec 4) (s : State), addr.toNat % 4 ≠ 0 →
    busRead addr s = (0, .busErr) ∧ busWrite addr w strb s = (s, .busErr)

/-- R69: unmapped reads, writes to unmapped and read-only targets, and the read of CTRL. -/
def Obligations.UnmappedAndReadOnlyRefused : Prop :=
  (∀ (addr : BitVec 16) (s : State), 0x30 ≤ addr.toNat ∧ addr.toNat < 0x1000 ∨ 0x3200 ≤ addr.toNat →
    busRead addr s = (0, .busErr)) ∧
  (∀ (addr : BitVec 16) (w : Word) (strb : BitVec 4) (s : State),
    0x30 ≤ addr.toNat ∧ addr.toNat < 0x1000 ∨ 0x2000 ≤ addr.toNat ∨
      addr = 0x0000 ∨ addr = 0x0004 ∨ addr = 0x0014 ∨ addr = 0x002C →
    busWrite addr w strb s = (s, .busErr)) ∧
  (∀ s : State, busRead 0x0008 s = (0, .ok))

/-- R64: a register is written whole or not at all, busy or not. -/
def Obligations.PartialRegisterWriteRefused : Prop :=
  ∀ (addr : BitVec 16) (w : Word) (strb : BitVec 4) (s : State), addr.toNat < 0x30 →
    (strb ≠ 0b1111 → busWrite addr w strb s = (s, .busErr)) ∧
    (∀ r : Reg, addr = r.offset → r ∈ [Reg.ctrl, .irqEn, .cmd, .argT, .argD, .argB, .argK, .argOff] →
      s.status.busy = false ∨ r = .ctrl ∨ r = .irqEn →
      busWrite addr w 0b1111 s = (s.writeReg w r, .ok))

/-- R67: while BUSY = 1 a write to CMD, an ARG register or IN_MEM is refused and sets ACCESS_ERR; no other
write sets it, and no other step of the machine does, be it a completion, a read, a WAIT or a reset;
writes to CTRL and IRQ_EN are accepted. -/
def Obligations.BusyWritesRefused : Prop :=
  (∀ (addr : BitVec 16) (w : Word) (strb : BitVec 4) (s : State),
    (s.status.busy = true → LockedWrite addr strb →
      busWrite addr w strb s =
        ({ s with status := { s.status with accessErr := true } }, .busErr)) ∧
    ((busWrite addr w strb s).1.status.accessErr = true → s.status.accessErr = false →
      s.status.busy = true ∧ LockedWrite addr strb) ∧
    (addr = 0x0008 ∨ addr = 0x000C → (busWrite addr w 0b1111 s).2 = .ok) ∧
    busWrite 0x000C w 0b1111 s =
      ({ s with irqEn := ⟨w.getLsbD 0, w.getLsbD 1, w.getLsbD 2⟩ }, .ok)) ∧
  ∀ s t : State, step s = .next t → s.status.accessErr = false → t.status.accessErr = true →
    s.engineTurn = false ∧ s.nextInputRefused

/-- Reads while busy (20_memory.md section 2, 93_implementation_defined.md U4): while BUSY = 1, RESULT,
GEN_DEG, OUT_MEM, GEN_MEM and EC_MEM read as a free value with response OK; everything else, and
everything while BUSY = 0, reads as it is stored, each register with the bits of 10_state.md section 3
(STATUS is in `StatusWordAndIrq`). The draw counter, which goes up at each read, is the model's (log
entry 4). -/
def Obligations.BusyReadsUnspecified : Prop :=
  (∀ s : State,
    (s.status.busy = false →
      busRead 0x0014 s = (s.result, .ok) ∧ busRead 0x002C s = (0#24 ++ s.genDeg, .ok)) ∧
    busRead 0x0000 s = (0x52534531#32, .ok) ∧ busRead 0x0008 s = (0#32, .ok) ∧
    (∃ v, busRead 0x000C s = (v, .ok) ∧ v.getLsbD 0 = s.irqEn.doneIe ∧
      v.getLsbD 1 = s.irqEn.errIe ∧ v.getLsbD 2 = s.irqEn.accIe ∧ v.extractLsb' 3 29 = 0#29) ∧
    busRead 0x0010 s = (s.cmd, .ok) ∧
    busRead 0x0018 s = (0#16 ++ s.argT, .ok) ∧ busRead 0x001C s = (0#16 ++ s.argD, .ok) ∧
    busRead 0x0020 s = (0#16 ++ s.argB, .ok) ∧ busRead 0x0024 s = (0#16 ++ s.argK, .ok) ∧
    busRead 0x0028 s = (0#16 ++ s.argOff, .ok)) ∧
  ∀ (addr : BitVec 16) (s : State), addr.toNat % 4 = 0 →
    (s.status.busy = true →
      addr = 0x0014 ∨ addr = 0x002C ∨ 0x2000 ≤ addr.toNat ∧ addr.toNat < 0x3200 →
      busRead addr s = (Config.busyRead s.draws, .ok)) ∧
    (∀ r : Reg, addr = r.offset → s.status.busy = false ∨ r ≠ .result ∧ r ≠ .genDeg →
      busRead addr s = (s.regWord r, .ok)) ∧
    (0x1000 ≤ addr.toNat → addr.toNat < 0x3200 → s.status.busy = false ∨ addr.toNat < 0x2000 →
      busRead addr s = (s.byteAtAddr (addr.toNat + 3) ++ s.byteAtAddr (addr.toNat + 2) ++
        s.byteAtAddr (addr.toNat + 1) ++ s.byteAtAddr addr.toNat, .ok)) ∧
    (s.doRead addr).draws = s.draws + 1

/-- R62, R65: an idle write to an IN_MEM word writes exactly the enabled byte lanes, byte 4j + l in bits
8l+7..8l, and a byte is read back in the lane it was written through. -/
def Obligations.MemoryLanesLittleEndian : Prop :=
  (∀ (addr : BitVec 16) (s : State), addr.toNat % 4 = 0 → 0x1000 ≤ addr.toNat →
    addr.toNat < 0x3200 → s.status.busy = false →
    ∃ v, busRead addr s = (v, .ok) ∧
      ∀ l, l < 4 → v.extractLsb' (8 * l) 8 = s.byteAtAddr (addr.toNat + l)) ∧
  (∀ (addr : BitVec 16) (w : Word) (strb : BitVec 4) (s : State), addr.toNat % 4 = 0 →
    0x1000 ≤ addr.toNat → addr.toNat < 0x2000 → s.status.busy = false →
    ∃ u v, busWrite addr w strb s = (u, .ok) ∧ u = { s with mem := u.mem } ∧
      busRead addr u = (v, .ok) ∧
      (∀ l, l < 4 → u.byteAtAddr (addr.toNat + l) =
        if strb.getLsbD l then w.extractLsb' (8 * l) 8 else s.byteAtAddr (addr.toNat + l)) ∧
      (∀ l, l < 4 → strb.getLsbD l = true →
        v.extractLsb' (8 * l) 8 = w.extractLsb' (8 * l) 8) ∧
      (∀ a, a < addr.toNat ∨ addr.toNat + 4 ≤ a → u.byteAtAddr a = s.byteAtAddr a))

/-- A read changes no state of the block, and a write to IRQ_EN, an ARG register or IN_MEM is
idempotent (20_memory.md section 2), over memories in canonical form. The fields `response` and `draws`
are the model's (log entries 5 and 4). -/
def Obligations.ReadsHaveNoSideEffect : Prop :=
  (∀ (addr : BitVec 16) (s : State),
    s.perform (.read addr) = { s with
      response := some (.read (busRead addr s).1 (busRead addr s).2)
      draws := s.draws + 1 }) ∧
  (∀ (addr : BitVec 16) (w : Word) (strb : BitVec 4) (s : State), Memory.wf s.mem →
    addr ≠ 0x0008 → addr ≠ 0x0010 →
    (busWrite addr w strb (busWrite addr w strb s).1).1 = (busWrite addr w strb s).1)

/-! ### Registers (10_state.md) -/

/-- R31: a write of CMD while BUSY = 0 accepts the whole word, sets BUSY and clears DONE, ERR and
ERRCODE but not ACCESS_ERR, and no other register or memory byte; while BUSY = 1 CMD keeps its value; a
read returns the last accepted word, and an illegal word is aborted at completion. The fields `wait` and
`draws` are the model's (log entries 3 and 4) and the statement says nothing about them. -/
def Obligations.CmdWriteAcceptsCommand : Prop :=
  (∀ (w : Word) (s : State), s.status.busy = false →
    ∃ u, busWrite 0x0010 w 0b1111 s = (u, .ok) ∧
      u = { s with
        cmd := w
        status := ⟨true, false, false, s.status.accessErr, .none⟩
        wait := u.wait
        draws := u.draws }) ∧
  (∀ (w : Word) (s : State), s.status.busy = true →
    (busWrite 0x0010 w 0b1111 s).1.cmd = s.cmd ∧ (busWrite 0x0010 w 0b1111 s).2 = .busErr) ∧
  (∀ s : State, busRead 0x0010 s = (s.cmd, .ok)) ∧ State.reset.cmd = 0 ∧
  (∀ s : State, wellFormedWord s.cmd = false →
    complete s = .next { s with status := errStatus s.status .illegalCmd })

/-- R29: CTRL reads 0; bit 1 clears DONE, ERR, ERRCODE and ACCESS_ERR and nothing else; bit 0 is the
soft reset, whatever bit 1 is; the other bits do nothing. -/
def Obligations.CtrlWritePulses : Prop :=
  ∀ (w : Word) (s : State),
    busRead 0x0008 s = (0, .ok) ∧
    (w.getLsbD 0 = true → busWrite 0x0008 w 0b1111 s = (s.softReset, .ok)) ∧
    (w.getLsbD 0 = false → w.getLsbD 1 = true →
      busWrite 0x0008 w 0b1111 s =
        ({ s with status := ⟨s.status.busy, false, false, false, .none⟩ }, .ok)) ∧
    (w.getLsbD 0 = false → w.getLsbD 1 = false → busWrite 0x0008 w 0b1111 s = (s, .ok))

/-- The ARG registers (10_state.md section 3): an idle write stores bits 15..0, a read gives them with
zeros above, and nothing else changes. -/
def Obligations.ArgRegistersStoreLowHalf : Prop :=
  ∀ (w : Word) (s : State), s.status.busy = false →
    busWrite 0x0018 w 0b1111 s = ({ s with argT := w.setWidth 16 }, .ok) ∧
    busWrite 0x001C w 0b1111 s = ({ s with argD := w.setWidth 16 }, .ok) ∧
    busWrite 0x0020 w 0b1111 s = ({ s with argB := w.setWidth 16 }, .ok) ∧
    busWrite 0x0024 w 0b1111 s = ({ s with argK := w.setWidth 16 }, .ok) ∧
    busWrite 0x0028 w 0b1111 s = ({ s with argOff := w.setWidth 16 }, .ok) ∧
    (∀ r : Reg, r ∈ [Reg.argT, .argD, .argB, .argK, .argOff] →
      busRead r.offset (busWrite r.offset w 0b1111 s).1 = (w &&& 0x0000FFFF#32, .ok))

/-- STATUS and `irq` (10_state.md sections 3 and 5, 60_exceptions.md section 1): the number of each error
name, every 4-bit value the code of exactly one name, the bits of the STATUS word, and the level of the
line. -/
def Obligations.StatusWordAndIrq : Prop :=
  (ErrCode.none.code = 0#4 ∧ ErrCode.illegalCmd.code = 1#4 ∧ ErrCode.gfDomain.code = 2#4 ∧
    ErrCode.noEcBytes.code = 3#4 ∧ ErrCode.noDataBytes.code = 4#4 ∧ ErrCode.blocksZero.code = 5#4 ∧
    ErrCode.totalRange.code = 6#4 ∧ ErrCode.dataRange.code = 7#4 ∧
    ErrCode.blockIdRange.code = 8#4 ∧ ErrCode.spanRange.code = 9#4 ∧ ErrCode.ecRange.code = 10#4 ∧
    ErrCode.ecMismatch.code = 11#4 ∧ ErrCode.blockMismatch.code = 12#4 ∧
    ErrCode.totalMismatch.code = 13#4 ∧ ErrCode.dataMismatch.code = 14#4 ∧
    ErrCode.interleaveMismatch.code = 15#4) ∧
  (∀ v : BitVec 4, ∃ c : ErrCode, c.code = v ∧ ∀ d : ErrCode, d.code = v → d = c) ∧
  ∀ s : State, ∃ v, busRead 0x0004 s = (v, .ok) ∧
    v.getLsbD 0 = s.status.busy ∧ v.getLsbD 1 = s.status.done ∧ v.getLsbD 2 = s.status.err ∧
    v.getLsbD 3 = s.status.accessErr ∧ v.extractLsb' 4 4 = s.status.errcode.code ∧
    v.extractLsb' 8 24 = 0#24 ∧
    (s.irq = true ↔ s.status.done = true ∧ s.irqEn.doneIe = true ∨
      s.status.err = true ∧ s.irqEn.errIe = true ∨
      s.status.accessErr = true ∧ s.irqEn.accIe = true)

/-! ### The step of the machine (70_reset_and_hazards.md sections 3 and 4) -/

/-- R240: while a command is pending and the engine moves next, the step is the meaning of the decoded
command, or the abort of an illegal word; and the state that holds a table word for the next step runs
it. When the engine moves next is log entry 3. -/
def Obligations.StepRunsDecodedCommand : Prop :=
  (∀ s : State, s.status.busy = true → s.wait = 0 ∨ s.inputs = [] →
    (∀ i, decode s.cmd = .command i → step s = exec i s) ∧
    (∀ why, decode s.cmd = .illegal why →
      step s = .next { s with status := errStatus s.status .illegalCmd })) ∧
  (∀ (s : State) (nbits w : Nat) (i : Instr), decodeTableWord nbits w = some i →
    step (s.withFetchWord nbits w) = exec i (s.withFetchWord nbits w))

/-- The other steps (20_memory.md section 3; the schedule is log entry 3, the fault log entry 6, the idle
step log entry 7): the host performs its next input, an idle machine stays as it is, and a transaction
while the reset input is asserted faults. An input is a write or a read of the bus with its answer, one
turn of the WAIT loop (30_encoding.md section 5: a read of STATUS, and again while BUSY = 1), or a level
of the reset input. `response` and `draws` are the model's (log entries 5 and 4). -/
def Obligations.StepPerformsNextInput : Prop :=
  (∀ (s : State) (addr : BitVec 16) (w : Word) (strb : BitVec 4),
    s.perform (.write addr w strb) = { (busWrite addr w strb s).1 with
      response := some (.write (busWrite addr w strb s).2) } ∧
    s.perform (.read addr) = { s with
      response := some (.read (busRead addr s).1 (busRead addr s).2)
      draws := s.draws + 1 } ∧
    s.perform .waitIdle = { s with
      inputs := if s.status.busy = true then .waitIdle :: s.inputs else s.inputs
      response := some (.read (busRead 0x0004 s).1 (busRead 0x0004 s).2)
      draws := s.draws + 1 } ∧
    ∀ level, s.perform (.rst level) = s.setRst level) ∧
  ∀ s : State, (s.status.busy = true → s.wait ≠ 0 ∧ s.inputs ≠ []) →
    (s.inputs = [] → step s = .next s) ∧
    (∀ i rest, s.inputs = i :: rest → (s.rst = true → i.isTransaction = false) →
      step s = .next (({ s with inputs := rest, wait := s.wait - 1 } : State).perform i)) ∧
    (∀ i rest, s.inputs = i :: rest → s.rst = true → i.isTransaction = true →
      step s = .fault .hostAccessDuringReset)

/-- The invariant is kept by every step, from every state that meets it. -/
def Obligations.StepKeepsInvariant : Prop :=
  ∀ s t : State, s.Inv → step s = .next t → t.Inv

/-- R46: while a command stays pending, CMD, the ARG registers and IN_MEM do not change. -/
def Obligations.OperandsStableWhilePending : Prop :=
  (∀ s t : State, s.status.busy = true → step s = .next t → t.status.busy = true →
    s.SameOperands t) ∧
  ∀ (k : Nat) (s t : State), s.status.busy = true →
    (∀ j u, j ≤ k → Host.Core.run Sys2Proof.core j s = .next u → u.status.busy = true) →
    Host.Core.run Sys2Proof.core k s = .next t → s.SameOperands t

/-- Progress (70_reset_and_hazards.md section 4; the number of host steps is log entry 3): a pending
command is completed or discarded after at most `wait + 1` steps. -/
def Obligations.PendingCommandEnds : Prop :=
  ∀ s : State, s.status.busy = true → s.rst = false →
    ∃ (k : Nat) (t : State), k ≤ s.wait + 1 ∧ Host.Core.run Sys2Proof.core k s = .next t ∧
      t.status.busy = false

/-- A machine whose host issues no transaction under reset never stops (70_reset_and_hazards.md section 1,
93_implementation_defined.md U7; log entry 6): its step answers a next state, whose host issues none
either, and so every run goes on. -/
def Obligations.RespectfulHostNeverStopsMachine : Prop :=
  (∀ s : State, hostRespectsReset s.rst s.inputs = true →
    ∃ t, step s = .next t ∧ hostRespectsReset t.rst t.inputs = true) ∧
  ∀ (k : Nat) (s : State), hostRespectsReset s.rst s.inputs = true → SafeRun k s

/-- The writers of the memories (10_state.md section 9): a byte changes only by an idle host write to its
IN_MEM word, by the one command that writes its memory, when it succeeds, or by hardware reset. -/
def Obligations.OnlyWritersChangeMemories : Prop :=
  ∀ (s t : State) (a : Nat), step s = .next t → t.byteAtAddr a ≠ s.byteAtAddr a →
    (s.engineTurn = false ∧ s.status.busy = false ∧ 0x1000 ≤ a ∧ a < 0x2000 ∧
      s.nextInputWrites (a - 3) (a + 1)) ∨
    (s.engineTurn = true ∧ t.status.done = true ∧
      (decode s.cmd = .command .rsInterleave ∧ 0x2000 ≤ a ∧ a < 0x3000 ∨
        (∃ n, decode s.cmd = .command (.genPoly n)) ∧ 0x3000 ≤ a ∧ a < 0x3100 ∨
        decode s.cmd = .command .rsEncode ∧ 0x3100 ≤ a ∧ a < 0x31FF)) ∨
    (s.engineTurn = false ∧ ∃ level, s.inputs.head? = some (.rst level))

/-- The writers of the registers (10_state.md section 9). In a step that is no reset: BUSY is set only by an
acceptance and cleared only by the completion; DONE is set only by a successful completion and ERR and
ERRCODE only by an aborted one, and all three are cleared only by an acceptance or CTRL.CLR; ACCESS_ERR
is set only by a write refused while busy and cleared only by CTRL.CLR; RESULT and GEN_DEG change only by
a successful command, CMD only by acceptance, each ARG register only by an idle host write to it, IRQ_EN
only by a host write to it. The clauses of DONE, ERR and ERRCODE are about states that meet the
invariant, in which neither is set while BUSY = 1. -/
def Obligations.OnlyWritersChangeRegisters : Prop :=
  ∀ s t : State, step s = .next t → ¬(s.engineTurn = false ∧ s.nextInputResets) →
    (t.status.busy ≠ s.status.busy →
      s.engineTurn = true ∧ t.status.busy = false ∨
      s.engineTurn = false ∧ s.nextInputAccepts ∧ t.status.busy = true) ∧
    (s.Inv → t.status.done ≠ s.status.done →
      s.engineTurn = true ∧ t.status.done = true ∧ t.status.err = false ∨
      s.engineTurn = false ∧ (s.nextInputAccepts ∨ s.nextInputClears) ∧ t.status.done = false) ∧
    (s.Inv → t.status.err ≠ s.status.err ∨ t.status.errcode ≠ s.status.errcode →
      s.engineTurn = true ∧ t.status.err = true ∧ t.status.errcode ≠ .none ∨
      s.engineTurn = false ∧ (s.nextInputAccepts ∨ s.nextInputClears) ∧ t.status.err = false ∧
        t.status.errcode = .none) ∧
    (t.status.accessErr ≠ s.status.accessErr → s.engineTurn = false ∧
      (s.nextInputRefused ∧ t.status.accessErr = true ∨
        s.nextInputClears ∧ t.status.accessErr = false)) ∧
    (t.result ≠ s.result → s.engineTurn = true ∧ t.status.done = true ∧
      ∃ i, decode s.cmd = .command i ∧ i ≠ .nop) ∧
    (t.genDeg ≠ s.genDeg → s.engineTurn = true ∧ t.status.done = true ∧
      ∃ n, decode s.cmd = .command (.genPoly n)) ∧
    (t.cmd ≠ s.cmd → s.engineTurn = false ∧ s.status.busy = false ∧
      s.nextInputWrites 0x0010 0x0011 ∧ t.status.busy = true) ∧
    (t.argT ≠ s.argT ∨ t.argD ≠ s.argD ∨ t.argB ≠ s.argB ∨ t.argK ≠ s.argK ∨
        t.argOff ≠ s.argOff →
      s.engineTurn = false ∧ s.status.busy = false ∧
      (t.argT ≠ s.argT → s.nextInputWrites 0x0018 0x0019) ∧
      (t.argD ≠ s.argD → s.nextInputWrites 0x001C 0x001D) ∧
      (t.argB ≠ s.argB → s.nextInputWrites 0x0020 0x0021) ∧
      (t.argK ≠ s.argK → s.nextInputWrites 0x0024 0x0025) ∧
      (t.argOff ≠ s.argOff → s.nextInputWrites 0x0028 0x0029)) ∧
    (t.irqEn ≠ s.irqEn → s.engineTurn = false ∧ s.nextInputWrites 0x000C 0x000D)
end

