-- ==== Sys2Proof/Laws/State.lean ====
section
/-! SUPPORT. One lemma for each field of State and each shared update, true by definition, so that no later
proof unfolds a record update; and the fields of STATUS after each event. -/

namespace Sys2Proof.Machine

section Status

variable (st : Status) (c : ErrCode)

@[simp] theorem Status.accepted_busy : st.accepted.busy = true := rfl
@[simp] theorem Status.accepted_done : st.accepted.done = false := rfl
@[simp] theorem Status.accepted_err : st.accepted.err = false := rfl
@[simp] theorem Status.accepted_accessErr : st.accepted.accessErr = st.accessErr := rfl
@[simp] theorem Status.accepted_errcode : st.accepted.errcode = .none := rfl

@[simp] theorem Status.succeeded_busy : st.succeeded.busy = false := rfl
@[simp] theorem Status.succeeded_done : st.succeeded.done = true := rfl
@[simp] theorem Status.succeeded_err : st.succeeded.err = false := rfl
@[simp] theorem Status.succeeded_accessErr : st.succeeded.accessErr = st.accessErr := rfl
@[simp] theorem Status.succeeded_errcode : st.succeeded.errcode = .none := rfl

@[simp] theorem Status.aborted_busy : (st.aborted c).busy = false := rfl
@[simp] theorem Status.aborted_done : (st.aborted c).done = false := rfl
@[simp] theorem Status.aborted_err : (st.aborted c).err = true := rfl
@[simp] theorem Status.aborted_accessErr : (st.aborted c).accessErr = st.accessErr := rfl
@[simp] theorem Status.aborted_errcode : (st.aborted c).errcode = c := rfl

@[simp] theorem Status.cleared_busy : st.cleared.busy = st.busy := rfl
@[simp] theorem Status.cleared_done : st.cleared.done = false := rfl
@[simp] theorem Status.cleared_err : st.cleared.err = false := rfl
@[simp] theorem Status.cleared_accessErr : st.cleared.accessErr = false := rfl
@[simp] theorem Status.cleared_errcode : st.cleared.errcode = .none := rfl

@[simp] theorem Status.accessRefused_busy : st.accessRefused.busy = st.busy := rfl
@[simp] theorem Status.accessRefused_done : st.accessRefused.done = st.done := rfl
@[simp] theorem Status.accessRefused_err : st.accessRefused.err = st.err := rfl
@[simp] theorem Status.accessRefused_accessErr : st.accessRefused.accessErr = true := rfl
@[simp] theorem Status.accessRefused_errcode : st.accessRefused.errcode = st.errcode := rfl

end Status

/-! `setResult` writes RESULT only. -/

section

variable (s : State) (w : Word)

@[simp] theorem State.setResult_status : (s.setResult w).status = s.status := rfl
@[simp] theorem State.setResult_irqEn : (s.setResult w).irqEn = s.irqEn := rfl
@[simp] theorem State.setResult_cmd : (s.setResult w).cmd = s.cmd := rfl
@[simp] theorem State.setResult_result : (s.setResult w).result = w := rfl
@[simp] theorem State.setResult_argT : (s.setResult w).argT = s.argT := rfl
@[simp] theorem State.setResult_argD : (s.setResult w).argD = s.argD := rfl
@[simp] theorem State.setResult_argB : (s.setResult w).argB = s.argB := rfl
@[simp] theorem State.setResult_argK : (s.setResult w).argK = s.argK := rfl
@[simp] theorem State.setResult_argOff : (s.setResult w).argOff = s.argOff := rfl
@[simp] theorem State.setResult_genDeg : (s.setResult w).genDeg = s.genDeg := rfl
@[simp] theorem State.setResult_mem : (s.setResult w).mem = s.mem := rfl
@[simp] theorem State.setResult_rst : (s.setResult w).rst = s.rst := rfl
@[simp] theorem State.setResult_inputs : (s.setResult w).inputs = s.inputs := rfl
@[simp] theorem State.setResult_response : (s.setResult w).response = s.response := rfl
@[simp] theorem State.setResult_wait : (s.setResult w).wait = s.wait := rfl
@[simp] theorem State.setResult_draws : (s.setResult w).draws = s.draws := rfl
@[simp] theorem State.setResult_epoch : (s.setResult w).epoch = s.epoch := rfl

end

/-! `setGenDeg` writes GEN_DEG only. -/

section

variable (s : State) (n : Byte)

@[simp] theorem State.setGenDeg_status : (s.setGenDeg n).status = s.status := rfl
@[simp] theorem State.setGenDeg_irqEn : (s.setGenDeg n).irqEn = s.irqEn := rfl
@[simp] theorem State.setGenDeg_cmd : (s.setGenDeg n).cmd = s.cmd := rfl
@[simp] theorem State.setGenDeg_result : (s.setGenDeg n).result = s.result := rfl
@[simp] theorem State.setGenDeg_argT : (s.setGenDeg n).argT = s.argT := rfl
@[simp] theorem State.setGenDeg_argD : (s.setGenDeg n).argD = s.argD := rfl
@[simp] theorem State.setGenDeg_argB : (s.setGenDeg n).argB = s.argB := rfl
@[simp] theorem State.setGenDeg_argK : (s.setGenDeg n).argK = s.argK := rfl
@[simp] theorem State.setGenDeg_argOff : (s.setGenDeg n).argOff = s.argOff := rfl
@[simp] theorem State.setGenDeg_genDeg : (s.setGenDeg n).genDeg = n := rfl
@[simp] theorem State.setGenDeg_mem : (s.setGenDeg n).mem = s.mem := rfl
@[simp] theorem State.setGenDeg_rst : (s.setGenDeg n).rst = s.rst := rfl
@[simp] theorem State.setGenDeg_inputs : (s.setGenDeg n).inputs = s.inputs := rfl
@[simp] theorem State.setGenDeg_response : (s.setGenDeg n).response = s.response := rfl
@[simp] theorem State.setGenDeg_wait : (s.setGenDeg n).wait = s.wait := rfl
@[simp] theorem State.setGenDeg_draws : (s.setGenDeg n).draws = s.draws := rfl
@[simp] theorem State.setGenDeg_epoch : (s.setGenDeg n).epoch = s.epoch := rfl

end

/-! `writeByte` writes memory only. -/

section

variable (s : State) (sp : Space) (i : Nat) (b : Byte)

@[simp] theorem State.writeByte_status : (s.writeByte sp i b).status = s.status := rfl
@[simp] theorem State.writeByte_irqEn : (s.writeByte sp i b).irqEn = s.irqEn := rfl
@[simp] theorem State.writeByte_cmd : (s.writeByte sp i b).cmd = s.cmd := rfl
@[simp] theorem State.writeByte_result : (s.writeByte sp i b).result = s.result := rfl
@[simp] theorem State.writeByte_argT : (s.writeByte sp i b).argT = s.argT := rfl
@[simp] theorem State.writeByte_argD : (s.writeByte sp i b).argD = s.argD := rfl
@[simp] theorem State.writeByte_argB : (s.writeByte sp i b).argB = s.argB := rfl
@[simp] theorem State.writeByte_argK : (s.writeByte sp i b).argK = s.argK := rfl
@[simp] theorem State.writeByte_argOff : (s.writeByte sp i b).argOff = s.argOff := rfl
@[simp] theorem State.writeByte_genDeg : (s.writeByte sp i b).genDeg = s.genDeg := rfl
@[simp] theorem State.writeByte_mem : (s.writeByte sp i b).mem =
    Memory.store s.mem (sp.base + i) b := rfl
@[simp] theorem State.writeByte_rst : (s.writeByte sp i b).rst = s.rst := rfl
@[simp] theorem State.writeByte_inputs : (s.writeByte sp i b).inputs = s.inputs := rfl
@[simp] theorem State.writeByte_response : (s.writeByte sp i b).response = s.response := rfl
@[simp] theorem State.writeByte_wait : (s.writeByte sp i b).wait = s.wait := rfl
@[simp] theorem State.writeByte_draws : (s.writeByte sp i b).draws = s.draws := rfl
@[simp] theorem State.writeByte_epoch : (s.writeByte sp i b).epoch = s.epoch := rfl

end

/-! `writeBytes` writes memory only. -/

section

variable (s : State) (sp : Space) (i : Nat) (bs : List Byte)

@[simp] theorem State.writeBytes_status : (s.writeBytes sp i bs).status = s.status := rfl
@[simp] theorem State.writeBytes_irqEn : (s.writeBytes sp i bs).irqEn = s.irqEn := rfl
@[simp] theorem State.writeBytes_cmd : (s.writeBytes sp i bs).cmd = s.cmd := rfl
@[simp] theorem State.writeBytes_result : (s.writeBytes sp i bs).result = s.result := rfl
@[simp] theorem State.writeBytes_argT : (s.writeBytes sp i bs).argT = s.argT := rfl
@[simp] theorem State.writeBytes_argD : (s.writeBytes sp i bs).argD = s.argD := rfl
@[simp] theorem State.writeBytes_argB : (s.writeBytes sp i bs).argB = s.argB := rfl
@[simp] theorem State.writeBytes_argK : (s.writeBytes sp i bs).argK = s.argK := rfl
@[simp] theorem State.writeBytes_argOff : (s.writeBytes sp i bs).argOff = s.argOff := rfl
@[simp] theorem State.writeBytes_genDeg : (s.writeBytes sp i bs).genDeg = s.genDeg := rfl
@[simp] theorem State.writeBytes_mem : (s.writeBytes sp i bs).mem =
    Memory.storeBytes s.mem (sp.base + i) bs := rfl
@[simp] theorem State.writeBytes_rst : (s.writeBytes sp i bs).rst = s.rst := rfl
@[simp] theorem State.writeBytes_inputs : (s.writeBytes sp i bs).inputs = s.inputs := rfl
@[simp] theorem State.writeBytes_response : (s.writeBytes sp i bs).response = s.response := rfl
@[simp] theorem State.writeBytes_wait : (s.writeBytes sp i bs).wait = s.wait := rfl
@[simp] theorem State.writeBytes_draws : (s.writeBytes sp i bs).draws = s.draws := rfl
@[simp] theorem State.writeBytes_epoch : (s.writeBytes sp i bs).epoch = s.epoch := rfl

end

/-! `succeed` writes STATUS only (60_exceptions.md R206). -/

section

variable (s : State)

@[simp] theorem State.succeed_status : s.succeed.status = s.status.succeeded := rfl
@[simp] theorem State.succeed_irqEn : s.succeed.irqEn = s.irqEn := rfl
@[simp] theorem State.succeed_cmd : s.succeed.cmd = s.cmd := rfl
@[simp] theorem State.succeed_result : s.succeed.result = s.result := rfl
@[simp] theorem State.succeed_argT : s.succeed.argT = s.argT := rfl
@[simp] theorem State.succeed_argD : s.succeed.argD = s.argD := rfl
@[simp] theorem State.succeed_argB : s.succeed.argB = s.argB := rfl
@[simp] theorem State.succeed_argK : s.succeed.argK = s.argK := rfl
@[simp] theorem State.succeed_argOff : s.succeed.argOff = s.argOff := rfl
@[simp] theorem State.succeed_genDeg : s.succeed.genDeg = s.genDeg := rfl
@[simp] theorem State.succeed_mem : s.succeed.mem = s.mem := rfl
@[simp] theorem State.succeed_rst : s.succeed.rst = s.rst := rfl
@[simp] theorem State.succeed_inputs : s.succeed.inputs = s.inputs := rfl
@[simp] theorem State.succeed_response : s.succeed.response = s.response := rfl
@[simp] theorem State.succeed_wait : s.succeed.wait = s.wait := rfl
@[simp] theorem State.succeed_draws : s.succeed.draws = s.draws := rfl
@[simp] theorem State.succeed_epoch : s.succeed.epoch = s.epoch := rfl

end

/-! `abort` writes STATUS only (60_exceptions.md R204). -/

section

variable (s : State) (c : ErrCode)

@[simp] theorem State.abort_status : (s.abort c).status = s.status.aborted c := rfl
@[simp] theorem State.abort_irqEn : (s.abort c).irqEn = s.irqEn := rfl
@[simp] theorem State.abort_cmd : (s.abort c).cmd = s.cmd := rfl
@[simp] theorem State.abort_result : (s.abort c).result = s.result := rfl
@[simp] theorem State.abort_argT : (s.abort c).argT = s.argT := rfl
@[simp] theorem State.abort_argD : (s.abort c).argD = s.argD := rfl
@[simp] theorem State.abort_argB : (s.abort c).argB = s.argB := rfl
@[simp] theorem State.abort_argK : (s.abort c).argK = s.argK := rfl
@[simp] theorem State.abort_argOff : (s.abort c).argOff = s.argOff := rfl
@[simp] theorem State.abort_genDeg : (s.abort c).genDeg = s.genDeg := rfl
@[simp] theorem State.abort_mem : (s.abort c).mem = s.mem := rfl
@[simp] theorem State.abort_rst : (s.abort c).rst = s.rst := rfl
@[simp] theorem State.abort_inputs : (s.abort c).inputs = s.inputs := rfl
@[simp] theorem State.abort_response : (s.abort c).response = s.response := rfl
@[simp] theorem State.abort_wait : (s.abort c).wait = s.wait := rfl
@[simp] theorem State.abort_draws : (s.abort c).draws = s.draws := rfl
@[simp] theorem State.abort_epoch : (s.abort c).epoch = s.epoch := rfl

end

/-! `accept` captures the word, sets BUSY and draws the latency (10_state.md R31). -/

section

variable (s : State) (w : Word)

@[simp] theorem State.accept_status : (s.accept w).status = s.status.accepted := rfl
@[simp] theorem State.accept_irqEn : (s.accept w).irqEn = s.irqEn := rfl
@[simp] theorem State.accept_cmd : (s.accept w).cmd = w := rfl
@[simp] theorem State.accept_result : (s.accept w).result = s.result := rfl
@[simp] theorem State.accept_argT : (s.accept w).argT = s.argT := rfl
@[simp] theorem State.accept_argD : (s.accept w).argD = s.argD := rfl
@[simp] theorem State.accept_argB : (s.accept w).argB = s.argB := rfl
@[simp] theorem State.accept_argK : (s.accept w).argK = s.argK := rfl
@[simp] theorem State.accept_argOff : (s.accept w).argOff = s.argOff := rfl
@[simp] theorem State.accept_genDeg : (s.accept w).genDeg = s.genDeg := rfl
@[simp] theorem State.accept_mem : (s.accept w).mem = s.mem := rfl
@[simp] theorem State.accept_rst : (s.accept w).rst = s.rst := rfl
@[simp] theorem State.accept_inputs : (s.accept w).inputs = s.inputs := rfl
@[simp] theorem State.accept_response : (s.accept w).response = s.response := rfl
@[simp] theorem State.accept_wait : (s.accept w).wait = Config.latency s.draws := rfl
@[simp] theorem State.accept_draws : (s.accept w).draws = s.draws + 1 := rfl
@[simp] theorem State.accept_epoch : (s.accept w).epoch = s.epoch := rfl

end

/-! `softReset` resets the registers and keeps the memories (70_reset_and_hazards.md R233). -/

section

variable (s : State)

@[simp] theorem State.softReset_status : s.softReset.status =
    ⟨false, false, false, false, .none⟩ := rfl
@[simp] theorem State.softReset_irqEn : s.softReset.irqEn = ⟨false, false, false⟩ := rfl
@[simp] theorem State.softReset_cmd : s.softReset.cmd = 0 := rfl
@[simp] theorem State.softReset_result : s.softReset.result = 0 := rfl
@[simp] theorem State.softReset_argT : s.softReset.argT = 0 := rfl
@[simp] theorem State.softReset_argD : s.softReset.argD = 0 := rfl
@[simp] theorem State.softReset_argB : s.softReset.argB = 0 := rfl
@[simp] theorem State.softReset_argK : s.softReset.argK = 0 := rfl
@[simp] theorem State.softReset_argOff : s.softReset.argOff = 0 := rfl
@[simp] theorem State.softReset_genDeg : s.softReset.genDeg = 0 := rfl
@[simp] theorem State.softReset_mem : s.softReset.mem = s.mem := rfl
@[simp] theorem State.softReset_rst : s.softReset.rst = s.rst := rfl
@[simp] theorem State.softReset_inputs : s.softReset.inputs = s.inputs := rfl
@[simp] theorem State.softReset_response : s.softReset.response = s.response := rfl
@[simp] theorem State.softReset_wait : s.softReset.wait = s.wait := rfl
@[simp] theorem State.softReset_draws : s.softReset.draws = s.draws := rfl
@[simp] theorem State.softReset_epoch : s.softReset.epoch = s.epoch := rfl

end

/-! `hardReset` resets the registers and draws the memories anew (70_reset_and_hazards.md R230, R231). -/

section

variable (s : State)

@[simp] theorem State.hardReset_status : s.hardReset.status =
    ⟨false, false, false, false, .none⟩ := rfl
@[simp] theorem State.hardReset_irqEn : s.hardReset.irqEn = ⟨false, false, false⟩ := rfl
@[simp] theorem State.hardReset_cmd : s.hardReset.cmd = 0 := rfl
@[simp] theorem State.hardReset_result : s.hardReset.result = 0 := rfl
@[simp] theorem State.hardReset_argT : s.hardReset.argT = 0 := rfl
@[simp] theorem State.hardReset_argD : s.hardReset.argD = 0 := rfl
@[simp] theorem State.hardReset_argB : s.hardReset.argB = 0 := rfl
@[simp] theorem State.hardReset_argK : s.hardReset.argK = 0 := rfl
@[simp] theorem State.hardReset_argOff : s.hardReset.argOff = 0 := rfl
@[simp] theorem State.hardReset_genDeg : s.hardReset.genDeg = 0 := rfl
@[simp] theorem State.hardReset_mem : s.hardReset.mem = [] := rfl
@[simp] theorem State.hardReset_rst : s.hardReset.rst = s.rst := rfl
@[simp] theorem State.hardReset_inputs : s.hardReset.inputs = s.inputs := rfl
@[simp] theorem State.hardReset_response : s.hardReset.response = s.response := rfl
@[simp] theorem State.hardReset_wait : s.hardReset.wait = s.wait := rfl
@[simp] theorem State.hardReset_draws : s.hardReset.draws = s.draws := rfl
@[simp] theorem State.hardReset_epoch : s.hardReset.epoch = s.epoch + 1 := rfl

end

/-! `takeInput` takes the first input and one host step. -/

section

variable (s : State) (rest : List Input)

@[simp] theorem State.takeInput_status : (s.takeInput rest).status = s.status := rfl
@[simp] theorem State.takeInput_irqEn : (s.takeInput rest).irqEn = s.irqEn := rfl
@[simp] theorem State.takeInput_cmd : (s.takeInput rest).cmd = s.cmd := rfl
@[simp] theorem State.takeInput_result : (s.takeInput rest).result = s.result := rfl
@[simp] theorem State.takeInput_argT : (s.takeInput rest).argT = s.argT := rfl
@[simp] theorem State.takeInput_argD : (s.takeInput rest).argD = s.argD := rfl
@[simp] theorem State.takeInput_argB : (s.takeInput rest).argB = s.argB := rfl
@[simp] theorem State.takeInput_argK : (s.takeInput rest).argK = s.argK := rfl
@[simp] theorem State.takeInput_argOff : (s.takeInput rest).argOff = s.argOff := rfl
@[simp] theorem State.takeInput_genDeg : (s.takeInput rest).genDeg = s.genDeg := rfl
@[simp] theorem State.takeInput_mem : (s.takeInput rest).mem = s.mem := rfl
@[simp] theorem State.takeInput_rst : (s.takeInput rest).rst = s.rst := rfl
@[simp] theorem State.takeInput_inputs : (s.takeInput rest).inputs = rest := rfl
@[simp] theorem State.takeInput_response : (s.takeInput rest).response = s.response := rfl
@[simp] theorem State.takeInput_wait : (s.takeInput rest).wait = s.wait - 1 := rfl
@[simp] theorem State.takeInput_draws : (s.takeInput rest).draws = s.draws := rfl
@[simp] theorem State.takeInput_epoch : (s.takeInput rest).epoch = s.epoch := rfl

end

/-! `doRead` puts the answer on the bus; no state of the block changes (20_memory.md R66). -/

section

variable (s : State) (addr : BitVec 16)

@[simp] theorem State.doRead_status : (s.doRead addr).status = s.status := rfl
@[simp] theorem State.doRead_irqEn : (s.doRead addr).irqEn = s.irqEn := rfl
@[simp] theorem State.doRead_cmd : (s.doRead addr).cmd = s.cmd := rfl
@[simp] theorem State.doRead_result : (s.doRead addr).result = s.result := rfl
@[simp] theorem State.doRead_argT : (s.doRead addr).argT = s.argT := rfl
@[simp] theorem State.doRead_argD : (s.doRead addr).argD = s.argD := rfl
@[simp] theorem State.doRead_argB : (s.doRead addr).argB = s.argB := rfl
@[simp] theorem State.doRead_argK : (s.doRead addr).argK = s.argK := rfl
@[simp] theorem State.doRead_argOff : (s.doRead addr).argOff = s.argOff := rfl
@[simp] theorem State.doRead_genDeg : (s.doRead addr).genDeg = s.genDeg := rfl
@[simp] theorem State.doRead_mem : (s.doRead addr).mem = s.mem := rfl
@[simp] theorem State.doRead_rst : (s.doRead addr).rst = s.rst := rfl
@[simp] theorem State.doRead_inputs : (s.doRead addr).inputs = s.inputs := rfl
@[simp] theorem State.doRead_response : (s.doRead addr).response =
    some (.read (busRead addr s).1 (busRead addr s).2) := rfl
@[simp] theorem State.doRead_wait : (s.doRead addr).wait = s.wait := rfl
@[simp] theorem State.doRead_draws : (s.doRead addr).draws = s.draws + 1 := rfl
@[simp] theorem State.doRead_epoch : (s.doRead addr).epoch = s.epoch := rfl

end

end Sys2Proof.Machine
end

