-- ==== Sys2Proof/Laws/Memory.lean ====
section
/-! SUPPORT. The laws of the four memories: a read after a write, and that every write keeps the canonical
form and the mapped addresses. -/

namespace Sys2Proof.Machine

/-! ### One byte -/

theorem Memory.lookup_store_same (m : List Host.Cell) (a : Nat) (b : Byte) :
    Memory.lookup (Memory.store m a b) a = some b := by
  induction m with
  | nil => simp [Memory.store, Memory.lookup]
  | cons c m ih =>
    obtain ⟨k, v⟩ := c
    simp only [Memory.store]
    split
    · simp [Memory.lookup]
    · split
      · simp [Memory.lookup]
      · rw [Memory.lookup, if_neg (by omega), ih]

theorem Memory.lookup_store_other (m : List Host.Cell) {a k : Nat} (b : Byte) (h : k ≠ a) :
    Memory.lookup (Memory.store m a b) k = Memory.lookup m k := by
  induction m with
  | nil => simp [Memory.store, Memory.lookup, h.symm]
  | cons c m ih =>
    obtain ⟨x, v⟩ := c
    simp only [Memory.store]
    split
    · rw [Memory.lookup, if_neg h.symm]
    · split
      · subst x; simp [Memory.lookup, h.symm]
      · simp [Memory.lookup, ih]

theorem Memory.mem_store {m : List Host.Cell} {a : Nat} {b : Byte} {c : Host.Cell}
    (h : c ∈ Memory.store m a b) : c = (a, b) ∨ c ∈ m := by
  induction m with
  | nil => simpa [Memory.store] using h
  | cons x m ih =>
    obtain ⟨k, v⟩ := x
    simp only [Memory.store] at h
    split at h
    · simpa using h
    · split at h
      · rcases List.mem_cons.mp h with h | h
        · exact .inl h
        · exact .inr (List.mem_cons_of_mem _ h)
      · rcases List.mem_cons.mp h with h | h
        · exact .inr (h ▸ List.mem_cons_self)
        · exact (ih h).imp id (List.mem_cons_of_mem _)

/-- Writing a byte keeps the canonical form. -/
theorem Memory.store_wf {m : List Host.Cell} (a : Nat) (b : Byte) (h : Memory.wf m) :
    Memory.wf (Memory.store m a b) := by
  induction m with
  | nil => simp [Memory.store, Memory.wf]
  | cons x m ih =>
    obtain ⟨k, v⟩ := x
    obtain ⟨hx, hm⟩ := List.pairwise_cons.mp h
    simp only [Memory.store]
    split
    · rename_i hlt
      refine List.pairwise_cons.mpr ⟨fun y hy => ?_, h⟩
      rcases List.mem_cons.mp hy with rfl | hy
      · exact hlt
      · exact lt_trans hlt (hx y hy)
    · split
      · subst a; exact List.pairwise_cons.mpr ⟨hx, hm⟩
      · refine List.pairwise_cons.mpr ⟨fun y hy => ?_, ih hm⟩
        rcases Memory.mem_store hy with rfl | hy
        · show k < a; omega
        · exact hx y hy

/-- Writing a byte at a mapped address keeps every listed address mapped. -/
theorem Memory.store_mapped {m : List Host.Cell} {a : Nat} (b : Byte) (h : Memory.mapped m)
    (ha : 0x1000 ≤ a ∧ a < 0x3200) : Memory.mapped (Memory.store m a b) := by
  intro c hc
  rcases Memory.mem_store hc with rfl | hc
  · exact ha
  · exact h c hc

/-! ### A list of bytes -/

theorem Memory.storeBytes_wf {m : List Host.Cell} (a : Nat) (bs : List Byte) (h : Memory.wf m) :
    Memory.wf (Memory.storeBytes m a bs) := by
  induction bs generalizing m a with
  | nil => exact h
  | cons b bs ih => exact ih (a + 1) (Memory.store_wf a b h)

theorem Memory.storeBytes_mapped {m : List Host.Cell} {a : Nat} (bs : List Byte)
    (h : Memory.mapped m) (ha : 0x1000 ≤ a ∧ a + bs.length ≤ 0x3200) :
    Memory.mapped (Memory.storeBytes m a bs) := by
  induction bs generalizing m a with
  | nil => exact h
  | cons b bs ih =>
    simp only [List.length_cons] at ha
    exact ih (Memory.store_mapped b h ⟨ha.1, by omega⟩) ⟨by omega, by omega⟩

theorem Memory.lookup_storeBytes_outside (m : List Host.Cell) {a k : Nat} (bs : List Byte)
    (h : k < a ∨ a + bs.length ≤ k) :
    Memory.lookup (Memory.storeBytes m a bs) k = Memory.lookup m k := by
  induction bs generalizing m a with
  | nil => rfl
  | cons b bs ih =>
    simp only [List.length_cons] at h
    rw [Memory.storeBytes, ih _ (by omega), Memory.lookup_store_other _ _ (by omega)]

theorem Memory.lookup_storeBytes_inside (m : List Host.Cell) (a : Nat) (bs : List Byte) {i : Nat}
    (h : i < bs.length) : Memory.lookup (Memory.storeBytes m a bs) (a + i) = some bs[i] := by
  induction bs generalizing m a i with
  | nil => simp at h
  | cons b bs ih =>
    cases i with
    | zero =>
      rw [Memory.storeBytes, Memory.lookup_storeBytes_outside _ _ (by omega)]
      exact Memory.lookup_store_same _ _ _
    | succ i =>
      rw [Memory.storeBytes, show a + (i + 1) = a + 1 + i by omega,
        ih _ _ (by simpa using h)]
      rfl

/-- The memory of State.reset, and of every hardware reset, lists nothing and is canonical. -/
theorem reset_mem_wf : Memory.wf State.reset.mem ∧ Memory.mapped State.reset.mem :=
  ⟨List.Pairwise.nil, fun _ h => absurd h List.not_mem_nil⟩

theorem State.hardReset_wf (s : State) : Memory.wf s.hardReset.mem ∧ Memory.mapped s.hardReset.mem :=
  reset_mem_wf

/-! ### Bytes of a state -/

/-- An update that leaves memory and the reset count alone leaves every byte alone. -/
theorem State.byteAtAddr_congr {s t : State} (hm : t.mem = s.mem) (he : t.epoch = s.epoch) (a : Nat) :
    t.byteAtAddr a = s.byteAtAddr a := by
  simp [State.byteAtAddr, hm, he]

theorem State.byteAtAddr_writeByte_same (s : State) (sp : Space) (i : Nat) (b : Byte) :
    (s.writeByte sp i b).byteAtAddr (sp.base + i) = b := by
  simp [State.byteAtAddr, Memory.lookup_store_same]

theorem State.byteAtAddr_writeByte_other (s : State) (sp : Space) (i : Nat) (b : Byte) {a : Nat}
    (h : a ≠ sp.base + i) : (s.writeByte sp i b).byteAtAddr a = s.byteAtAddr a := by
  simp [State.byteAtAddr, Memory.lookup_store_other _ _ h]

/-- The bytes that `writeBytes` wrote. -/
theorem State.byteAt_writeBytes_inside (s : State) (sp : Space) (i : Nat) (bs : List Byte) {j : Nat}
    (h : j < bs.length) : (s.writeBytes sp i bs).byteAt sp (i + j) = bs[j] := by
  simp only [State.byteAt, State.byteAtAddr, State.writeBytes_mem, ← Nat.add_assoc]
  rw [Memory.lookup_storeBytes_inside _ _ _ h]
  rfl

/-- Every byte that `writeBytes` did not write. -/
theorem State.byteAtAddr_writeBytes_outside (s : State) (sp : Space) (i : Nat) (bs : List Byte)
    {a : Nat} (h : a < sp.base + i ∨ sp.base + i + bs.length ≤ a) :
    (s.writeBytes sp i bs).byteAtAddr a = s.byteAtAddr a := by
  simp [State.byteAtAddr, Memory.lookup_storeBytes_outside _ _ h]

@[simp] theorem State.readBytes_length (s : State) (sp : Space) (i n : Nat) :
    (s.readBytes sp i n).length = n := by
  simp [State.readBytes]

theorem State.readBytes_getElem? (s : State) (sp : Space) (i n j : Nat) (h : j < n) :
    (s.readBytes sp i n)[j]? = some (s.byteAt sp (i + j)) := by
  simp [State.readBytes, h]

end Sys2Proof.Machine
end

