-- ==== Sys2Proof/Laws/Bus.lean ====
section
/-! SUPPORT. The address map seen from the registers and the windows, and what a write transaction can do. -/

namespace Sys2Proof.Machine

/-- Every register is found at its offset (10_state.md R21). -/
@[simp] theorem targetOf_offset (r : Reg) : targetOf r.offset = .reg r := by
  cases r <;> decide

@[simp] theorem aligned_offset (r : Reg) : aligned r.offset = true := by
  cases r <;> decide

/-- Only a register's offset names that register. -/
theorem targetOf_eq_reg {addr : BitVec 16} {r : Reg} : targetOf addr = .reg r ↔ addr = r.offset := by
  refine ⟨fun h => ?_, fun h => h ▸ targetOf_offset r⟩
  unfold targetOf at h
  split at h
  · rename_i q hq
    obtain rfl : q = r := by simpa using h
    have := List.find?_some hq
    simpa using (show q.offset = addr by simpa using this).symm
  · split at h <;> cases h

/-- No register lies at or above offset 0x30. -/
theorem find_reg_none {addr : BitVec 16} (h : 0x30 ≤ addr.toNat) :
    allRegs.find? (fun r => r.offset == addr) = none := by
  refine List.find?_eq_none.mpr fun r _ he => ?_
  obtain rfl : r.offset = addr := by simpa using he
  revert h
  cases r <;> decide

/-- The target of an address at or above 0x30, by the window that holds it. -/
theorem targetOf_above {addr : BitVec 16} (h : 0x30 ≤ addr.toNat) :
    targetOf addr =
      if 0x1000 ≤ addr.toNat ∧ addr.toNat < 0x2000 then .word .inMem (addr.toNat - 0x1000)
      else if 0x2000 ≤ addr.toNat ∧ addr.toNat < 0x3000 then .word .outMem (addr.toNat - 0x2000)
      else if 0x3000 ≤ addr.toNat ∧ addr.toNat < 0x3100 then .word .genMem (addr.toNat - 0x3000)
      else if 0x3100 ≤ addr.toNat ∧ addr.toNat < 0x3200 then .word .ecMem (addr.toNat - 0x3100)
      else .unmapped := by
  have holds_iff : ∀ sp : Space, sp.holds addr.toNat =
      decide (sp.base ≤ addr.toNat ∧ addr.toNat < sp.base + sp.size) := by
    intro sp; simp [Space.holds]
  unfold targetOf
  rw [find_reg_none h]
  simp only [allSpaces, List.find?_cons, List.find?_nil, holds_iff]
  simp only [Space.base, Space.size, Config.bufBytes, Config.genBytes, Config.ecBytes, Nat.reduceAdd]
  by_cases h1 : 0x1000 ≤ addr.toNat ∧ addr.toNat < 0x2000
  · simp only [h1, and_self, decide_true, if_true]
  by_cases h2 : 0x2000 ≤ addr.toNat ∧ addr.toNat < 0x3000
  · simp only [h1, h2, and_self, decide_true, decide_false, if_true, if_false]
  by_cases h3 : 0x3000 ≤ addr.toNat ∧ addr.toNat < 0x3100
  · simp only [h1, h2, h3, and_self, decide_true, decide_false, if_true, if_false]
  by_cases h4 : 0x3100 ≤ addr.toNat ∧ addr.toNat < 0x3200
  · simp only [h1, h2, h3, h4, and_self, decide_true, decide_false, if_true, if_false]
  · simp only [h1, h2, h3, h4, decide_false, if_false]

/-- Alignment in numbers (20_memory.md R61). -/
theorem aligned_iff {addr : BitVec 16} : aligned addr = true ↔ addr.toNat % 4 = 0 := by
  unfold aligned
  rw [beq_iff_eq, ← BitVec.toNat_inj]
  simp [BitVec.extractLsb'_toNat]

/-- A word of a window is one whose first byte lies in it (10_state.md R21). -/
theorem targetOf_word {addr : BitVec 16} {sp : Space} {i : Nat} (h : targetOf addr = .word sp i) :
    sp.base + i = addr.toNat ∧ i < sp.size := by
  unfold targetOf at h
  split at h
  · cases h
  · split at h
    · rename_i q hq
      have hp := List.find?_some hq
      simp only [Space.holds, Bool.and_eq_true, decide_eq_true_eq] at hp
      simp only [Target.word.injEq] at h
      obtain ⟨rfl, rfl⟩ := h
      omega
    · cases h

/-- The read of a register (20_memory.md R68). -/
theorem busRead_reg (r : Reg) (s : State) :
    busRead r.offset s =
      if s.status.busy && (Target.reg r).hiddenWhileBusy then (Config.busyRead s.draws, .ok)
      else (s.regWord r, .ok) := by
  unfold busRead
  rw [if_pos (aligned_offset r), targetOf_offset]

/-- The whole write of a register (20_memory.md R64, R67, R69). -/
theorem busWrite_reg (r : Reg) (w : Word) (s : State) :
    busWrite r.offset w 0b1111 s =
      if (Target.reg r).readOnly then (s, .busErr)
      else if s.status.busy && (Target.reg r).lockedWhileBusy then
        ({ s with status := s.status.accessRefused }, .busErr)
      else (s.writeReg w r, .ok) := by
  unfold busWrite
  simp only [aligned_offset, targetOf_offset, Target.strobeOk, State.writeTarget]
  simp

/-- Every result of a write transaction: refused without effect, refused by the busy rule with
ACCESS_ERR set, or accepted (20_memory.md R67). -/
theorem busWrite_cases (addr : BitVec 16) (w : Word) (strb : BitVec 4) (s : State) :
    busWrite addr w strb s = (s, .busErr) ∨
    (s.status.busy = true ∧ (targetOf addr).lockedWhileBusy = true ∧
      busWrite addr w strb s = ({ s with status := s.status.accessRefused }, .busErr)) ∨
    (aligned addr = true ∧ (targetOf addr).readOnly = false ∧
      (targetOf addr).strobeOk strb = true ∧
      (s.status.busy = true → (targetOf addr).lockedWhileBusy = false) ∧
      busWrite addr w strb s = (s.writeTarget w strb (targetOf addr), .ok)) := by
  unfold busWrite
  split
  · exact .inl rfl
  · split
    · exact .inl rfl
    · split
      · exact .inl rfl
      · split
        · rename_i h
          simp only [Bool.and_eq_true] at h
          exact .inr (.inl ⟨h.1, h.2, rfl⟩)
        · rename_i h1 h2 h3 h4
          refine .inr (.inr ⟨by simpa using h1, by simpa using h2, by simpa using h3, ?_, rfl⟩)
          intro hb
          simpa [hb] using h4

/-- One byte lane: written where its strobe is 1, and every other byte stays (20_memory.md R65). -/
theorem State.byteAtAddr_writeLane (s : State) (sp : Space) (i : Nat) (w : Word) (strb : BitVec 4)
    (l a : Nat) :
    (s.writeLane sp i w strb l).byteAtAddr a =
      if strb.getLsbD l = true ∧ a = sp.base + (i + l) then lane w l else s.byteAtAddr a := by
  unfold State.writeLane
  split
  · rename_i hs
    by_cases ha : a = sp.base + (i + l)
    · subst ha; simp [hs, State.byteAtAddr_writeByte_same]
    · simp [hs, ha, State.byteAtAddr_writeByte_other _ _ _ _ ha]
  · rename_i hs; simp [hs]

/-- The four lanes together: inside the word each lane by its strobe, and outside nothing. -/
theorem State.byteAtAddr_writeLanes (s : State) (sp : Space) (i : Nat) (w : Word) (strb : BitVec 4)
    (a : Nat) :
    (s.writeLanes sp i w strb).byteAtAddr a =
      if sp.base + i ≤ a ∧ a < sp.base + i + 4 ∧ strb.getLsbD (a - (sp.base + i)) = true then
        lane w (a - (sp.base + i))
      else s.byteAtAddr a := by
  simp only [State.writeLanes, List.foldl_cons, List.foldl_nil, State.byteAtAddr_writeLane]
  by_cases h : sp.base + i ≤ a ∧ a < sp.base + i + 4
  · obtain ⟨l, hl, rfl⟩ : ∃ l, l < 4 ∧ a = sp.base + i + l := ⟨a - (sp.base + i), by omega, by omega⟩
    have hne : ∀ m, sp.base + i + l = sp.base + (i + m) ↔ l = m := fun m => by omega
    simp only [hne, show sp.base + i ≤ sp.base + i + l by omega, Nat.add_sub_cancel_left, true_and,
      show sp.base + i + l < sp.base + i + 4 by omega]
    interval_cases l <;> simp
  · have hne : ∀ m, m < 4 → a ≠ sp.base + (i + m) := fun m hm => by omega
    simp only [hne 0 (by omega), hne 1 (by omega), hne 2 (by omega), hne 3 (by omega), and_false,
      if_false]
    rw [if_neg (by tauto)]

/-- Writing lanes touches memory only. -/
theorem State.writeLanes_eq (s : State) (sp : Space) (i : Nat) (w : Word) (strb : BitVec 4) :
    s.writeLanes sp i w strb = { s with mem := (s.writeLanes sp i w strb).mem } := by
  have one : ∀ (t : State) (l : Nat),
      t.writeLane sp i w strb l = { t with mem := (t.writeLane sp i w strb l).mem } := by
    intro t l
    unfold State.writeLane
    split <;> rfl
  simp only [State.writeLanes, List.foldl_cons, List.foldl_nil]
  rw [one (State.writeLane _ _ _ _ _ 2) 3, one (State.writeLane _ _ _ _ _ 1) 2,
    one (State.writeLane _ _ _ _ _ 0) 1, one s 0]

/-- Writing lanes keeps the canonical form. -/
theorem State.writeLanes_wf {s : State} (sp : Space) (i : Nat) (w : Word) (strb : BitVec 4)
    (h : Memory.wf s.mem) : Memory.wf (s.writeLanes sp i w strb).mem := by
  have one : ∀ (t : State) (l : Nat), Memory.wf t.mem → Memory.wf (t.writeLane sp i w strb l).mem := by
    intro t l ht
    unfold State.writeLane
    split
    · exact Memory.store_wf _ _ ht
    · exact ht
  exact one _ _ (one _ _ (one _ _ (one _ _ h)))

/-- Writing lanes of a word whose four bytes are mapped keeps every listed address mapped. -/
theorem State.writeLanes_mapped {s : State} (sp : Space) (i : Nat) (w : Word) (strb : BitVec 4)
    (h : Memory.mapped s.mem) (hi : 0x1000 ≤ sp.base + i ∧ sp.base + i + 4 ≤ 0x3200) :
    Memory.mapped (s.writeLanes sp i w strb).mem := by
  have one : ∀ (t : State) (l : Nat), l < 4 → Memory.mapped t.mem →
      Memory.mapped (t.writeLane sp i w strb l).mem := by
    intro t l hl ht
    unfold State.writeLane
    split
    · exact Memory.store_mapped _ ht ⟨by omega, by omega⟩
    · exact ht
  exact one _ _ (by omega) (one _ _ (by omega) (one _ _ (by omega) (one _ _ (by omega) h)))

end Sys2Proof.Machine
end

