-- ==== Sys2Proof/Laws/Ops.lean ====
section
/-! SUPPORT. What the shared operations of a command's completion can do: the ordered checks, and the two
ways a command ends. -/

namespace Sys2Proof.Machine

@[simp] theorem firstError_nil : firstError [] = none := rfl

@[simp] theorem firstError_cons (bad : Bool) (c : ErrCode) (l : List (Bool × ErrCode)) :
    firstError ((bad, c) :: l) = if bad then some c else firstError l := rfl

theorem firstError_append (l m : List (Bool × ErrCode)) :
    firstError (l ++ m) = (firstError l).or (firstError m) := by
  induction l with
  | nil => rfl
  | cons x l ih =>
    obtain ⟨bad, c⟩ := x
    cases bad <;> simp [ih]

/-- No error is reported exactly when no check's condition holds. -/
theorem firstError_eq_none {l : List (Bool × ErrCode)} :
    firstError l = none ↔ ∀ x ∈ l, x.1 = false := by
  induction l with
  | nil => simp
  | cons x l ih =>
    obtain ⟨bad, c⟩ := x
    cases bad <;> simp [ih]

/-- The reported error is one of the listed checks, and its condition holds. -/
theorem firstError_mem {l : List (Bool × ErrCode)} {c : ErrCode} (h : firstError l = some c) :
    (true, c) ∈ l := by
  induction l with
  | nil => simp at h
  | cons x l ih =>
    obtain ⟨bad, d⟩ := x
    cases bad
    · exact List.mem_cons_of_mem _ (ih (by simpa using h))
    · obtain rfl : d = c := by simpa using h
      exact List.mem_cons_self

theorem State.checked_of_error {s : State} {l : List (Bool × ErrCode)} {c : ErrCode}
    {body : Unit → Host.Outcome State Fault Refusal} (h : firstError l = some c) :
    s.checked l body = .next (s.abort c) := by
  simp [State.checked, h]

theorem State.checked_of_pass {s : State} {l : List (Bool × ErrCode)}
    {body : Unit → Host.Outcome State Fault Refusal} (h : firstError l = none) :
    s.checked l body = body () := by
  simp [State.checked, h]

/-- Everything a checked computation `o` can do: abort with the first error, which is one of the listed
codes, or run the body when no check fails. -/
theorem State.checked_cases {s : State} {l : List (Bool × ErrCode)}
    {body : Unit → Host.Outcome State Fault Refusal} {o : Host.Outcome State Fault Refusal}
    (h : o = s.checked l body) :
    (∃ c, (true, c) ∈ l ∧ o = .next (s.abort c)) ∨ (firstError l = none ∧ o = body ()) := by
  cases hc : firstError l with
  | none => exact .inr ⟨rfl, by rw [h, State.checked_of_pass hc]⟩
  | some c => exact .inl ⟨c, firstError_mem hc, by rw [h, State.checked_of_error hc]⟩

end Sys2Proof.Machine
end

