-- ==== Sys2Proof/Laws/Commands.lean ====
section
/-! SUPPORT. The inversion lemma of `exec`: the one list of what a command can do to the state. -/

namespace Sys2Proof.Machine

/-- What the successful completion of a command writes, by command (10_state.md R50): the memory bytes
and GEN_DEG (GEN_POLY), memory bytes (RS_ENCODE, RS_INTERLEAVE), RESULT. -/
inductive Writes (s : State) : State → Prop
  | nothing : Writes s s
  | result (w : Word) : Writes s (s.setResult w)
  | generator (n : Byte) :
      Writes s (((s.writeBytes .genMem 0 (genPoly n.toNat)).setGenDeg n).setResult (zext32 n))
  | ecBytes (h : firstError (rsEncodeChecks s.opOff s.opD s.opK) = none) :
      Writes s ((s.writeBytes .ecMem 0
        (rsEc (s.readBytes .inMem s.opOff s.opD) s.opK)).setResult (natWord s.opK))
  | codewords (h : firstError (interleaveChecks s.opT s.opD s.opB) = none)
      (hlen : (interleavedOut s).length = s.opT) :
      Writes s ((s.writeBytes .outMem 0 (interleavedOut s)).setResult (natWord s.opT))

/-- A command aborts with an error code other than NONE, or succeeds with one of the writes above. -/
theorem exec_cases (i : Instr) (s : State) :
    (∃ c, c ≠ .none ∧ exec i s = .next (s.abort c)) ∨
    (∃ u, Writes s u ∧ exec i s = .next u.succeed) := by
  cases i with
  | nop => exact .inr ⟨_, .nothing, rfl⟩
  | gfAdd a bv => exact .inr ⟨_, .result _, rfl⟩
  | gfMul a bv => exact .inr ⟨_, .result _, rfl⟩
  | gfExp k => exact .inr ⟨_, .result _, rfl⟩
  | genPoly n => exact .inr ⟨_, .generator n, rfl⟩
  | gfInv a =>
    cases h : gfInv a with
    | none => exact .inl ⟨.gfDomain, by decide, by simp [exec, execGfInv, h]⟩
    | some r => exact .inr ⟨_, .result (zext32 r), by simp [exec, execGfInv, h]⟩
  | gfLog a =>
    cases h : logOf a with
    | none => exact .inl ⟨.gfDomain, by decide, by simp [exec, execGfLog, h]⟩
    | some r => exact .inr ⟨_, .result (natWord r), by simp [exec, execGfLog, h]⟩
  | polyEval x =>
    rcases State.checked_cases (o := exec (.polyEval x) s) (by rw [exec, execPolyEval]) with ⟨c, hc, ho⟩ | ⟨-, ho⟩
    · refine .inl ⟨c, ?_, ho⟩
      rintro rfl
      simp [spanCheck] at hc
    · exact .inr ⟨_, .result _, ho⟩
  | rsEncode =>
    rcases State.checked_cases (o := exec .rsEncode s) (by rw [exec, execRsEncode]) with ⟨c, hc, ho⟩ | ⟨hc, ho⟩
    · refine .inl ⟨c, ?_, ho⟩
      rintro rfl
      simp [rsEncodeChecks, spanCheck] at hc
    · exact .inr ⟨_, .ecBytes hc, ho⟩
  | rsBlockinfo =>
    rcases State.checked_cases (o := exec .rsBlockinfo s) (by rw [exec, execRsBlockinfo]) with ⟨c, hc, ho⟩ | ⟨-, ho⟩
    · refine .inl ⟨c, ?_, ho⟩
      rintro rfl
      simp [blockinfoChecks, rangeChecks, invariantChecks] at hc
    · exact .inr ⟨_, .result _, ho⟩
  | rsInterleave =>
    rcases State.checked_cases (o := exec .rsInterleave s)
        (by rw [exec, execRsInterleave]) with ⟨c, hc, ho⟩ | ⟨hc, ho⟩
    · refine .inl ⟨c, ?_, ho⟩
      rintro rfl
      simp [interleaveChecks, rangeChecks, invariantChecks, encodeChecks] at hc
    · rcases State.checked_cases ho with ⟨c, hd, ho'⟩ | ⟨hd, ho'⟩
      · refine .inl ⟨c, ?_, ho'⟩
        rintro rfl
        simp at hd
      · refine .inr ⟨_, .codewords hc ?_, ho'⟩
        simpa using firstError_eq_none.mp hd

/-- No command faults and none is refused. -/
theorem exec_next (i : Instr) (s : State) : ∃ t, exec i s = .next t := by
  rcases exec_cases i s with ⟨c, -, h⟩ | ⟨u, -, h⟩
  · exact ⟨_, h⟩
  · exact ⟨_, h⟩

end Sys2Proof.Machine
end

