-- ==== Sys2Proof/Laws/Decode.lean ====
section
/-! SUPPORT. The fields of an encoded word: a field of a concatenation is the part that stands there. -/

namespace Sys2Proof

/-- The low part of a concatenation. -/
theorem extract_low {m n : Nat} (x : BitVec m) (y : BitVec n) : (x ++ y).extractLsb' 0 n = y := by
  ext k hk
  simp [BitVec.getLsbD_append, hk]

/-- A field above the low part of a concatenation is a field of the high part. -/
theorem extract_high {m n : Nat} (x : BitVec m) (y : BitVec n) (i len : Nat) :
    (x ++ y).extractLsb' (n + i) len = x.extractLsb' i len := by
  ext k hk
  simp [BitVec.getLsbD_append, show ¬ n + i + k < n by omega, show n + i + k - n = i + k by omega]

theorem opField_encodeBare (op : Byte) : opField (encodeBare op) = op := extract_low _ _

theorem opField_encodeG1 (op a : Byte) : opField (encodeG1 op a) = op := extract_low _ _

theorem opField_encodeG2 (op a bv : Byte) : opField (encodeG2 op a bv) = op := extract_low _ _

theorem operandA_encodeG1 (op a : Byte) : operandA (encodeG1 op a) = a :=
  (extract_high (0#16 ++ a) op 0 8).trans (extract_low _ _)

theorem operandA_encodeG2 (op a bv : Byte) : operandA (encodeG2 op a bv) = a :=
  (extract_high (0#8 ++ bv ++ a) op 0 8).trans (extract_low _ _)

theorem operandBv_encodeG2 (op a bv : Byte) : operandBv (encodeG2 op a bv) = bv :=
  (extract_high (0#8 ++ bv ++ a) op 8 8).trans
    ((extract_high (0#8 ++ bv) a 0 8).trans (extract_low _ _))

/-! ### Words and fields as numbers -/

theorem toNat_concat {m n : Nat} (x : BitVec m) (y : BitVec n) :
    (x ++ y).toNat = x.toNat * 2 ^ n + y.toNat := by
  rw [BitVec.toNat_append, Nat.shiftLeft_eq, Nat.mul_comm, ← Nat.two_pow_add_eq_or_of_lt y.isLt]

theorem encodeBare_toNat (op : Byte) : (encodeBare op).toNat = op.toNat :=
  (toNat_concat 0#24 op).trans (by simp)

theorem encodeG1_toNat (op a : Byte) : (encodeG1 op a).toNat = a.toNat * 256 + op.toNat :=
  (toNat_concat (0#16 ++ a) op).trans (by rw [toNat_concat]; simp)

theorem encodeG2_toNat (op a bv : Byte) :
    (encodeG2 op a bv).toNat = (bv.toNat * 256 + a.toNat) * 256 + op.toNat :=
  (toNat_concat (0#8 ++ bv ++ a) op).trans (by rw [toNat_concat, toNat_concat]; simp)

theorem opField_toNat (w : Word) : (opField w).toNat = w.toNat % 256 := by
  simp [opField, BitVec.extractLsb'_toNat]

theorem operandA_toNat (w : Word) : (operandA w).toNat = w.toNat / 256 % 256 := by
  simp [operandA, BitVec.extractLsb'_toNat, Nat.shiftRight_eq_div_pow]

theorem operandBv_toNat (w : Word) : (operandBv w).toNat = w.toNat / 65536 % 256 := by
  simp [operandBv, BitVec.extractLsb'_toNat, Nat.shiftRight_eq_div_pow]

/-- The must-be-zero field of formats Z and R. -/
theorem mbz_bare_iff (w : Word) : w.extractLsb' 8 24 = 0 ↔ w.toNat / 256 = 0 := by
  rw [← BitVec.toNat_inj]
  simp [BitVec.extractLsb'_toNat, Nat.shiftRight_eq_div_pow]
  omega

/-- The must-be-zero field of format G1. -/
theorem mbz_g1_iff (w : Word) : w.extractLsb' 16 16 = 0 ↔ w.toNat / 65536 = 0 := by
  rw [← BitVec.toNat_inj]
  simp [BitVec.extractLsb'_toNat, Nat.shiftRight_eq_div_pow]
  omega

/-- The must-be-zero field of format G2. -/
theorem mbz_g2_iff (w : Word) : w.extractLsb' 24 8 = 0 ↔ w.toNat / 16777216 = 0 := by
  rw [← BitVec.toNat_inj]
  simp [BitVec.extractLsb'_toNat, Nat.shiftRight_eq_div_pow]
  omega

end Sys2Proof
end

