-- ==== Sys2Proof/Laws/Gf.lean ====
section
/-! SUPPORT. The small lemmas of the GF(256) operations: where the logarithm is defined, the zero rule of the
product, and addition as exclusive OR. -/

namespace Sys2Proof.Machine

@[simp] theorem logOf_zero : logOf 0 = none := rfl

theorem logOf_of_ne_zero {a : Byte} (h : a ≠ 0) : logOf a = some (tableEntry logRows a.toNat) :=
  if_neg h

theorem logOf_eq_none {a : Byte} : logOf a = none ↔ a = 0 := by
  unfold logOf
  split
  · exact ⟨fun _ => ‹_›, fun _ => rfl⟩
  · exact ⟨nofun, fun h => absurd h ‹_›⟩

@[simp] theorem gfMul_zero_left (b : Byte) : gfMul 0 b = 0 := rfl

@[simp] theorem gfMul_zero_right (a : Byte) : gfMul a 0 = 0 := by
  rw [gfMul, logOf_zero]
  cases logOf a <;> rfl

/-- The product through the tables (40_gf_arith.md R104). -/
theorem gfMul_of_logs {a b : Byte} {i j : Nat} (ha : logOf a = some i) (hb : logOf b = some j) :
    gfMul a b = expOf ((i + j) % 255) := by
  simp [gfMul, ha, hb]

theorem gfInv_eq_none {a : Byte} : gfInv a = none ↔ a = 0 := by
  simp [gfInv, logOf_eq_none]

theorem gfInv_of_log {a : Byte} {i : Nat} (h : logOf a = some i) : gfInv a = some (expOf (255 - i)) := by
  simp [gfInv, h]

theorem gfAdd_eq_xor (a b : Byte) : gfAdd a b = a ^^^ b := rfl

@[simp] theorem gfAdd_self (a : Byte) : gfAdd a a = 0 := BitVec.xor_self

@[simp] theorem gfAdd_zero (a : Byte) : gfAdd a 0 = a := BitVec.xor_zero

@[simp] theorem zero_gfAdd (a : Byte) : gfAdd 0 a = a := BitVec.zero_xor

end Sys2Proof.Machine
end

