-- ==== Sys2Proof/Machine/HostProgram.lean ====
section
/-! DEFINITION. The host sequences of 30_encoding.md R90 and R91 as lists of inputs. -/

namespace Sys2Proof.Machine

/-- `WR <reg>, <value>` (30_encoding.md R90). -/
def wr (r : Reg) (w : Word) : Input := .write r.offset w 0b1111

/-- `WRB <offset>, <value>, <strb>` (30_encoding.md R90). -/
def wrb (addr : BitVec 16) (w : Word) (strb : BitVec 4) : Input := .write addr w strb

/-- `RD <reg>` (30_encoding.md R90). -/
def rd (r : Reg) : Input := .read r.offset

/-- `ISSUE <command>` (30_encoding.md R90). -/
def issue (i : Instr) : Input := wr .cmd (encode i)

/-- `RUN <command>`, that is ISSUE, WAIT, RD STATUS (30_encoding.md R91). -/
def runCommand (i : Instr) : List Input := [issue i, .waitIdle, rd .status]

/-- `GF_SQR a` (30_encoding.md R91). -/
def gfSqr (a : Byte) : List Input := runCommand (.gfMul a a)

/-- The first half of `GF_DIV a, b`: the inverse of `b`, then a read of RESULT (30_encoding.md R91). -/
def gfDivInverse (b : Byte) : List Input := runCommand (.gfInv b) ++ [rd .result]

/-- The second half of `GF_DIV a, b`: `t` is what the host read in the first (30_encoding.md R91). -/
def gfDivMultiply (a : Byte) (t : Word) : List Input := runCommand (.gfMul a (lane t 0))

/-- The byte that `LOAD_IN i, bytes` puts at index `j` of IN_MEM, where it puts one. -/
def loadByte (i : Nat) (bytes : List Byte) (j : Nat) : Option Byte :=
  if i ≤ j then bytes[j - i]? else none

/-- The strobe bit of index `j`: is a byte put there? -/
def loadStrobe (i : Nat) (bytes : List Byte) (j : Nat) : BitVec 1 :=
  BitVec.ofBool (loadByte i bytes j).isSome

/-- The word write of `LOAD_IN i, bytes` for the word whose first byte is `IN[4k]`, at bus address
`0x1000 + 4k`. DESIGN CHOICE (notes/assumptions/15): the rule gives `LOAD_IN` no meaning for an index above
4095; the write then goes out at the same expression, taken modulo 2^16 where it has more than 16 bits,
so it can reach another window or, after a wrap, a register. -/
def loadWord (i : Nat) (bytes : List Byte) (k : Nat) : Input :=
  let at_ (l : Nat) : Byte := (loadByte i bytes (4 * k + l)).getD 0
  let strobe (l : Nat) : BitVec 1 := loadStrobe i bytes (4 * k + l)
  wrb (BitVec.ofNat 16 (Space.inMem.base + 4 * k)) (at_ 3 ++ at_ 2 ++ at_ 1 ++ at_ 0)
    (strobe 3 ++ strobe 2 ++ strobe 1 ++ strobe 0)

/-- The number of words that `n` bytes from index `i` on cover: none where there is no byte, and otherwise
the words from `i / 4` to `(i + n - 1) / 4`. -/
def coveredWords (i n : Nat) : Nat := if n = 0 then 0 else (i + n - 1) / 4 + 1 - i / 4

/-- `LOAD_IN i, bytes`: one write for each covered word, lanes as 20_memory.md R62 (30_encoding.md R91). For
indices outside IN_MEM it is the model's choice (notes/assumptions/15). -/
def loadIn (i : Nat) (bytes : List Byte) : List Input :=
  (List.range (coveredWords i bytes.length)).map (fun k => loadWord i bytes (i / 4 + k))

end Sys2Proof.Machine
end

