-- ==== Sys2Proof/Laws/HostProgram.lean ====
section
/-! SUPPORT. Which words LOAD_IN writes (30_encoding.md R91). -/

namespace Sys2Proof.Machine

/-- LOAD_IN writes the word `i / 4 + k` exactly when one of its bytes, those of index `i .. i + n - 1`, lies in
that word. -/
theorem lt_coveredWords_iff (i n k : Nat) :
    k < coveredWords i n ↔ ∃ j, i ≤ j ∧ j < i + n ∧ j / 4 = i / 4 + k := by
  unfold coveredWords
  split
  · rename_i h
    exact ⟨fun hk => absurd hk (by omega), fun ⟨j, _, _, _⟩ => by omega⟩
  · refine ⟨fun hk => ⟨max i (4 * (i / 4 + k)), ?_, ?_, ?_⟩, fun ⟨j, _, _, _⟩ => by omega⟩ <;> omega

/-- No byte, no write. -/
@[simp] theorem loadIn_nil (i : Nat) : loadIn i [] = [] := rfl

end Sys2Proof.Machine
end

