-- ==== Sys2Proof/Laws/PerInstr.lean ====
section
/-! SUPPORT. A statement about every command as syntax: OP stands in bits 7..0 of its word (30_encoding.md
R80, R86). -/

namespace Sys2Proof.Laws.OpcodeInWord

/-- The low byte of the command's word is its opcode. -/
def Statement (i : Instr) : Prop := opField (encode i) = opcode i

theorem nop : Statement .nop := opField_encodeBare _

theorem gfAdd (a bv : Byte) : Statement (.gfAdd a bv) := opField_encodeG2 _ _ _

theorem gfMul (a bv : Byte) : Statement (.gfMul a bv) := opField_encodeG2 _ _ _

theorem gfInv (a : Byte) : Statement (.gfInv a) := opField_encodeG1 _ _

theorem gfExp (i : Byte) : Statement (.gfExp i) := opField_encodeG1 _ _

theorem gfLog (a : Byte) : Statement (.gfLog a) := opField_encodeG1 _ _

theorem genPoly (n : Byte) : Statement (.genPoly n) := opField_encodeG1 _ _

theorem polyEval (x : Byte) : Statement (.polyEval x) := opField_encodeG1 _ _

theorem rsEncode : Statement .rsEncode := opField_encodeBare _

theorem rsBlockinfo : Statement .rsBlockinfo := opField_encodeBare _

theorem rsInterleave : Statement .rsInterleave := opField_encodeBare _

end Sys2Proof.Laws.OpcodeInWord
end

