-- ==== Sys2Proof/Laws/Poly.lean ====
section
/-! SUPPORT. Lengths of the polynomial operations, the shape of the normal form, and the recursion equations
that later proofs cite instead of unfolding. -/

namespace Sys2Proof.Machine

/-! ### Normal form -/

@[simp] theorem norm_nil : norm [] = [0] := rfl

@[simp] theorem norm_zero_cons (p : List Byte) : norm (0 :: p) = norm p := by
  simp [norm]

theorem norm_cons_of_ne_zero {c : Byte} (p : List Byte) (h : c ≠ 0) : norm (c :: p) = c :: p := by
  have hc : (c == 0) = false := by simpa using h
  rw [norm, List.dropWhile_cons_of_neg (by rw [hc]; exact Bool.false_ne_true)]

@[simp] theorem norm_replicate_append (n : Nat) (p : List Byte) :
    norm (List.replicate n 0 ++ p) = norm p := by
  induction n with
  | zero => rfl
  | succ n ih => rw [List.replicate_succ, List.cons_append, norm_zero_cons, ih]

theorem norm_ne_nil (p : List Byte) : norm p ≠ [] := by
  induction p with
  | nil => simp
  | cons c p ih =>
    by_cases h : c = 0
    · rw [h, norm_zero_cons]; exact ih
    · rw [norm_cons_of_ne_zero p h]; exact List.cons_ne_nil _ _

theorem norm_length_pos (p : List Byte) : 1 ≤ (norm p).length :=
  List.length_pos_iff.mpr (norm_ne_nil p)

theorem norm_length_le (p : List Byte) : (norm p).length ≤ max p.length 1 := by
  induction p with
  | nil => simp
  | cons c p ih =>
    by_cases h : c = 0
    · rw [h, norm_zero_cons, List.length_cons]; omega
    · rw [norm_cons_of_ne_zero p h]; exact le_max_left _ _

@[simp] theorem norm_norm (p : List Byte) : norm (norm p) = norm p := by
  induction p with
  | nil => rfl
  | cons c p ih =>
    by_cases h : c = 0
    · rw [h, norm_zero_cons, ih]
    · rw [norm_cons_of_ne_zero p h, norm_cons_of_ne_zero p h]

/-! ### Lengths -/

@[simp] theorem padTo_length (n : Nat) (p : List Byte) : (padTo n p).length = max n p.length := by
  simp [padTo]; omega

@[simp] theorem addRaw_length (p q : List Byte) : (addRaw p q).length = max p.length q.length := by
  simp [addRaw]; omega

@[simp] theorem scale_length (c : Byte) (p : List Byte) : (scale c p).length = p.length := by
  simp [scale]

theorem mulRaw_length (p q : List Byte) (hp : p ≠ []) :
    (mulRaw p q).length = p.length + q.length - 1 := by
  have hl : 1 ≤ p.length := List.length_pos_iff.mpr hp
  induction q with
  | nil => simp [mulRaw]
  | cons c q ih => simp only [mulRaw, addRaw_length, List.length_append, scale_length,
      List.length_replicate, ih, List.length_cons]; omega

theorem genPoly_ne_nil (n : Nat) : genPoly n ≠ [] := by
  cases n with
  | zero => exact List.cons_ne_nil _ _
  | succ n => exact norm_ne_nil _

/-- A generator of degree n has at most n + 1 coefficients. -/
theorem genPoly_length_le (n : Nat) : (genPoly n).length ≤ n + 1 := by
  induction n with
  | zero => exact le_refl _
  | succ n ih =>
    refine (norm_length_le _).trans ?_
    rw [mulRaw_length _ _ (genPoly_ne_nil n)]
    simp only [List.length_cons, List.length_nil]
    omega

theorem rightAlign_length (e : Nat) (r : List Byte) :
    (rightAlign e r).length = max e (norm r).length := by
  simp [rightAlign]; omega

/-! ### Evaluation -/

@[simp] theorem polyEval_nil (x : Byte) : polyEval [] x = 0 := rfl

/-- One turn of Horner's rule (41_poly_rs.md R136). -/
theorem polyEval_concat (p : List Byte) (c x : Byte) :
    polyEval (p ++ [c]) x = gfAdd (gfMul (polyEval p x) x) c := by
  simp [polyEval]

/-! ### Blocks -/

theorem sliceFrom_length (s : State) (g : Groups) (n k offset : Nat) :
    (sliceFrom s g n k offset).length = n := by
  induction n generalizing k offset with
  | zero => rfl
  | succ n ih => simp [sliceFrom, ih]

end Sys2Proof.Machine
end

