-- ==== Sys2Proof/Laws/Step.lean ====
section
/-! SUPPORT. The inversion lemma of the step: what one step of the machine can be. -/

namespace Sys2Proof.Machine

/-- A step that answers a next state is a completion of a legal word, the abort of an illegal word, an
idle step, or the host's next input. -/
theorem step_cases {s t : State} (h : step s = .next t) :
    (s.engineTurn = true ∧ ∃ i, decode s.cmd = .command i ∧ exec i s = .next t) ∨
    (s.engineTurn = true ∧ (∃ why, decode s.cmd = .illegal why) ∧ t = s.abort .illegalCmd) ∨
    (s.engineTurn = false ∧ s.inputs = [] ∧ t = s) ∨
    (s.engineTurn = false ∧ ∃ i rest, s.inputs = i :: rest ∧
      (s.rst = true → i.isTransaction = false) ∧ t = (s.takeInput rest).perform i) := by
  unfold step stepOnce at h
  split at h
  · rename_i he
    unfold complete at h
    split at h
    · rename_i i hi; exact .inl ⟨he, i, hi, h⟩
    · rename_i why hw
      simp only [Host.Outcome.next.injEq] at h
      exact .inr (.inl ⟨he, ⟨why, hw⟩, h.symm⟩)
  · rename_i he
    have he : s.engineTurn = false := by simpa using he
    unfold hostStep at h
    split at h
    · rename_i hi
      simp only [Host.Outcome.next.injEq] at h
      exact .inr (.inr (.inl ⟨he, hi, h.symm⟩))
    · rename_i i rest hi
      split at h
      · cases h
      · rename_i hr
        simp only [Host.Outcome.next.injEq] at h
        refine .inr (.inr (.inr ⟨he, i, rest, hi, ?_, h.symm⟩))
        intro hrst
        simpa [hrst] using hr

end Sys2Proof.Machine
end

