-- ==== Sys2Proof/Tests/Slice0.lean ====
section
/-! SUPPORT. The model's own tests. Expected values come from 95_test_vectors.md (the vector's id stands in
each comment) or from the rule named there. The last part shows, for every obligation that has
hypotheses, concrete values that meet them. -/

namespace Sys2Proof.Tests

set_option Elab.async false

open Sys2Proof.Machine

/-! ### Helpers -/

/-- The state a computation ends in, where it ends in one. -/
def after : Host.Outcome State Fault Refusal → Option State
  | .next s => some s
  | _ => none

/-- RESULT after an outcome. -/
def resultOf (o : Host.Outcome State Fault Refusal) : Option Word := (after o).map (·.result)

/-- STATUS as a word after an outcome. -/
def statusOf (o : Host.Outcome State Fault Refusal) : Option Word := (after o).map (·.status.word)

/-- The `n` bytes of a memory from byte 0 on, after an outcome. -/
def bytesOf (sp : Space) (n : Nat) (o : Host.Outcome State Fault Refusal) : Option (List Byte) :=
  (after o).map (fun s => s.readBytes sp 0 n)

/-- The reset state with operands: T, D, B, K, OFF and bytes from IN[OFF] on. -/
def withOperands (t d b k off : Half) (bytes : List Byte) : State :=
  { State.reset with argT := t, argD := d, argB := b, argK := k, argOff := off }.writeBytes
    .inMem off.toNat bytes

/-- The reset state with a command word pending, `wait` host steps before it completes. -/
def pending (w : Word) (wait : Nat) (inputs : List Input) : State :=
  { State.reset.placeCommand w with wait := wait, inputs := inputs }

/-! ### Decoding: one written-out word for each command (30_encoding.md R81 to R86) -/

theorem test_decode_nop : decode 0b00000000000000000000000000000000 = .command .nop := by decide
theorem test_decode_gfAdd :
    decode 0b00000000110010100101001100000001 = .command (.gfAdd 0x53 0xCA) := by decide
theorem test_decode_gfMul :
    decode 0b00000000000000101000000000000010 = .command (.gfMul 0x80 0x02) := by decide
theorem test_decode_gfInv :
    decode 0b00000000000000000101001100000011 = .command (.gfInv 0x53) := by decide
theorem test_decode_gfExp :
    decode 0b00000000000000000001100100000100 = .command (.gfExp 0x19) := by decide
theorem test_decode_gfLog :
    decode 0b00000000000000001111111100000101 = .command (.gfLog 0xFF) := by decide
theorem test_decode_genPoly :
    decode 0b00000000000000000000101000010000 = .command (.genPoly 10) := by decide
theorem test_decode_polyEval :
    decode 0b00000000000000000111010000010001 = .command (.polyEval 0x74) := by decide
theorem test_decode_rsEncode :
    decode 0b00000000000000000000000000100000 = .command .rsEncode := by decide
theorem test_decode_rsBlockinfo :
    decode 0b00000000000000000000000000100001 = .command .rsBlockinfo := by decide
theorem test_decode_rsInterleave :
    decode 0b00000000000000000000000000100010 = .command .rsInterleave := by decide

/-! ### Ill-formed words, one for each check (V-X1 to V-X6), and the rows are disjoint -/

theorem test_reserved_opcode : wellFormedWord 0x00000006 = false ∧
    decode 0x00000006 = .illegal .reservedOpcode := by decide
theorem test_reserved_opcode_high : wellFormedWord 0x000000FF = false ∧
    decode 0x000000FF = .illegal .reservedOpcode := by decide
theorem test_nop_must_be_zero : wellFormedWord 0x00000100 = false ∧
    decode 0x00000100 = .illegal .nonzeroMustBeZero := by decide
theorem test_g2_must_be_zero : wellFormedWord 0x01000001 = false ∧
    decode 0x01000001 = .illegal .nonzeroMustBeZero := by decide
theorem test_g1_must_be_zero : wellFormedWord 0x00010003 = false ∧
    decode 0x00010003 = .illegal .nonzeroMustBeZero := by decide
theorem test_r_must_be_zero : wellFormedWord 0x00000120 = false ∧
    decode 0x00000120 = .illegal .nonzeroMustBeZero := by decide
theorem test_rows_disjoint : opcodeMap.Pairwise (fun r q => r.overlaps q = false) := by
  decide +kernel

/-! ### Commands -/

/-- V-G1 -/
theorem test_nop : statusOf (exec .nop State.reset) = some 0x00000002 := by decide
/-- V-G2 -/
theorem test_gfAdd : resultOf (exec (.gfAdd 0x53 0xCA) State.reset) = some 0x00000099 := by decide
/-- V-G5 -/
theorem test_gfMul : resultOf (exec (.gfMul 0x53 0xCA) State.reset) = some 0x0000008F := by decide
/-- V-G7 -/
theorem test_gfMul_top : resultOf (exec (.gfMul 0xFF 0xFF) State.reset) = some 0x000000E2 := by
  decide
/-- V-G13 -/
theorem test_gfInv : resultOf (exec (.gfInv 0x53) State.reset) = some 0x0000008C := by decide
/-- V-G21 -/
theorem test_gfInv_zero : statusOf (exec (.gfInv 0) State.reset) = some 0x00000024 := by decide
/-- V-G27 -/
theorem test_gfExp : resultOf (exec (.gfExp 254) State.reset) = some 0x0000008E := by decide
/-- V-G28 -/
theorem test_gfExp_255 : resultOf (exec (.gfExp 255) State.reset) = some 0x00000001 := by decide
/-- V-G35 -/
theorem test_gfLog : resultOf (exec (.gfLog 0xFF) State.reset) = some 0x000000AF := by decide
/-- V-G36 -/
theorem test_gfLog_zero : statusOf (exec (.gfLog 0) State.reset) = some 0x00000024 := by decide
/-- V-P6 -/
theorem test_genPoly_10 : bytesOf .genMem 11 (exec (.genPoly 10) State.reset) =
    some [0x01, 0xD8, 0xC2, 0x9F, 0x6F, 0xC7, 0x5E, 0x5F, 0x71, 0x9D, 0xC1] := by decide +kernel
/-- V-E4 -/
theorem test_polyEval : resultOf (exec (.polyEval 0x53) (withOperands 0 3 0 0 0
    [0x12, 0x34, 0x56])) = some 0x0000008A := by decide +kernel
/-- V-X26 -/
theorem test_polyEval_span : statusOf (exec (.polyEval 0) (withOperands 0 0xFFFF 0 0 0xFFFF [])) =
    some 0x00000094 := by decide +kernel
/-- V-RS13, the ISO example V-GK1 -/
theorem test_rsEncode : bytesOf .ecMem 10 (exec .rsEncode (withOperands 0 16 0 10 0
    [0x10, 0x20, 0x0C, 0x56, 0x61, 0x80, 0xEC, 0x11, 0xEC, 0x11, 0xEC, 0x11, 0xEC, 0x11, 0xEC, 0x11])) =
    some [0xA5, 0x24, 0xD4, 0xC1, 0xED, 0x36, 0xC7, 0x87, 0x2C, 0x55] := by decide +kernel
/-- V-RS19: the span ends at the last byte of IN_MEM -/
theorem test_rsEncode_last_byte : bytesOf .ecMem 1 (exec .rsEncode (withOperands 0 2 0 1 4094
    [0x0F, 0x35])) = some [0x3A] := by decide +kernel
/-- V-B3 -/
theorem test_rsBlockinfo : resultOf (exec .rsBlockinfo (withOperands 134 62 4 2 0 [])) =
    some 0x00120010 := by decide +kernel
/-- V-X23: DATA_RANGE comes before BLOCK_ID_RANGE -/
theorem test_rsBlockinfo_order : statusOf (exec .rsBlockinfo (withOperands 5 6 1 3 0 [])) =
    some 0x00000074 := by decide +kernel
/-- V-IL2: two unequal blocks -/
theorem test_rsInterleave : bytesOf .outMem 11 (exec .rsInterleave (withOperands 11 5 2 0 0
    [0x10, 0x11, 0x12, 0x13, 0x14])) =
    some [0x10, 0x12, 0x11, 0x13, 0x14, 0xDA, 0x54, 0xF4, 0xA2, 0x2F, 0xE3] := by decide +kernel
/-- V-X31: DATA_MISMATCH -/
theorem test_rsInterleave_mismatch : statusOf (exec .rsInterleave (withOperands 10 5 3 0 0 [])) =
    some 0x000000E4 := by decide +kernel

/-! ### Bus -/

/-- V-H1 -/
theorem test_read_misaligned : busRead 0x0006 State.reset = (0, .busErr) := by decide
/-- V-H6: IN[0..3] = 11 22 33 44, lanes 0 and 2 written -/
theorem test_write_strobes : ((busWrite 0x1000 0xAABBCCDD 0b0101
    (withOperands 0 0 0 0 0 [0x11, 0x22, 0x33, 0x44])).1.readBytes .inMem 0 4) =
    [0xDD, 0x22, 0xBB, 0x44] := by decide +kernel
/-- V-H9: reserved bits of ARG_T -/
theorem test_argT_read_back : busRead 0x0018 (busWrite 0x0018 0xFFFF1234 0b1111 State.reset).1 =
    (0x00001234, .ok) := by decide +kernel
/-- V-H13: the strobe rule comes before the busy rule -/
theorem test_strobe_before_busy : busWrite 0x001C 7 0b0001 (pending 0 0 []) =
    (pending 0 0 [], .busErr) := by decide +kernel
/-- V-H17 and V-H18: CTRL.CLR, and `irq` before it -/
theorem test_ctrl_clear : ({ State.reset with
      status := ⟨false, false, true, true, .dataMismatch⟩, irqEn := ⟨false, true, false⟩ } : State).irq =
        true ∧
    (busWrite 0x0008 2 0b1111 { State.reset with
      status := ⟨false, false, true, true, .dataMismatch⟩ }).1.status.word = 0 := by decide +kernel
/-- V-H21: acceptance keeps ACCESS_ERR -/
theorem test_accept_keeps_access_err : (busWrite 0x0010 0 0b1111 { State.reset with
    status := ⟨false, false, false, true, .none⟩ }).1.status.word = 0x00000009 := by decide +kernel

/-! ### Steps and host sequences -/

/-- V-X1 through a step: the illegal word is aborted. -/
theorem test_step_illegal : statusOf (step (State.reset.withFetchWord 32 0x00000006)) =
    some 0x00000014 := by decide
/-- V-G6 through a step. -/
theorem test_step_gfMul : resultOf (step (State.reset.withFetchWord 32 0x00028002)) =
    some 0x0000001D := by decide
/-- 93_implementation_defined.md U7: a transaction under reset. -/
theorem test_access_under_reset : step { State.reset with rst := true, inputs := [.read 0] } =
    .fault .hostAccessDuringReset := rfl
/-- 30_encoding.md R91: LOAD_IN of five bytes at index 3 covers two words. -/
theorem test_loadIn : loadIn 3 [1, 2, 3, 4, 5] =
    [.write 0x1000 0x01000000 0b1000, .write 0x1004 0x05040302 0b1111] := by decide +kernel
/-- 30_encoding.md R91: LOAD_IN of no byte covers no word, wherever its index lies in a word. -/
theorem test_loadIn_empty : loadIn 1 [] = [] ∧ loadIn 4 [] = [] := by decide

/-! ### Witnesses: values that meet the hypotheses of each obligation that has some -/

/-- HardwareResetClearsRegisters and HardwareResetDrawsMemories: both ways to meet the hypothesis. -/
theorem witness_hardware_reset : (true = true ∨ State.reset.rst = true) ∧
    (false = true ∨ ({ State.reset with rst := true } : State).rst = true) := by decide
theorem witness_step_under_reset : ({ State.reset with rst := true } : State).status.busy = false ∧
    step { State.reset with rst := true } = .next { State.reset with rst := true } ∧
    ∃ t, step { State.reset with rst := true, inputs := [.rst false] } = .next t := ⟨rfl, rfl, _, rfl⟩
theorem witness_SoftResetKeepsMemories : (1#32).getLsbD 0 = true := by decide
theorem witness_DecodeAndEncodeAgree : decode 0x00FFFF02 = .command (.gfMul 0xFF 0xFF) := by decide
theorem witness_DecoderMeetsOpcodeMap :
    wellFormedWord (pending 0x00000023 0 []).cmd = false ∧ wellFormedWord 0x00000022 = true ∧
    (pending 0x00000023 0 []).cmd.toNat % 256 = 0x23 ∧ (0x00000106 : Word).toNat % 256 = 0x06 ∧
    (0x0000000F : Word).toNat % 256 = 0x0F ∧ (0x00000012 : Word).toNat % 256 = 0x12 ∧
    (0x0000001F : Word).toNat % 256 = 0x1F ∧ State.reset.status.busy = false ∧
    decode 0 = .command .nop := by
  decide
theorem witness_NopSetsDoneOnly : State.reset.status.accessErr = false := rfl
theorem witness_LogAndExpTables : (255 < 256 ∧ 254 < 255) ∧ (0xFF : Byte) ≠ 0 := by decide
theorem witness_GfMulIsReducedProduct : logOf 0xFF = some 175 ∧ logOf 1 = some 0 ∧
    ((0 : Byte) = 0 ∨ (1 : Byte) = 0) := by decide
/-- GfInverseMultipliesToOne, GfInvWritesInverse and GfLogWritesExponent: a nonzero byte. -/
theorem witness_nonzero_byte : (0x01 : Byte) ≠ 0 ∧ (0xFF : Byte) ≠ 0 := by decide
theorem witness_GfFieldLaws : gfInv 0x02 = some 0x8E ∧ 255 < 256 := by decide
/-- IllegalFrom for the formats G2, G1 and Z/R, at the lowest must-be-zero bit. -/
theorem witness_IllegalFrom :
    ((pending 0x01000001 0 []).cmd.toNat % 256 = (0x01 : Byte).toNat ∧
      (pending 0x01000001 0 []).cmd.toNat / 2 ^ 24 ≠ 0) ∧
    ((pending 0x00010003 0 []).cmd.toNat % 256 = (0x03 : Byte).toNat ∧
      (pending 0x00010003 0 []).cmd.toNat / 2 ^ 16 ≠ 0) ∧
    ((pending 0x00000120 0 []).cmd.toNat % 256 = (0x20 : Byte).toNat ∧
      (pending 0x00000120 0 []).cmd.toNat / 2 ^ 8 ≠ 0) := by decide
/-- The decoding clauses of the scalar commands: a word of each format. -/
theorem witness_scalar_decoding :
    ((0x00CA5301 : Word).extractLsb' 0 8 = 0x01#8 ∧ (0x00CA5301 : Word).extractLsb' 24 8 = 0#8) ∧
    ((0x00FFFF02 : Word).extractLsb' 0 8 = 0x02#8 ∧ (0x00FFFF02 : Word).extractLsb' 24 8 = 0#8) ∧
    ((0x0000FF03 : Word).extractLsb' 0 8 = 0x03#8 ∧ (0x0000FF03 : Word).extractLsb' 16 16 = 0#16) ∧
    ((0x0000FF04 : Word).extractLsb' 0 8 = 0x04#8 ∧ (0x0000FF04 : Word).extractLsb' 16 16 = 0#16) ∧
    ((0x0000FF05 : Word).extractLsb' 0 8 = 0x05#8 ∧
      (0x0000FF05 : Word).extractLsb' 16 16 = 0#16) := by decide
theorem witness_NormalFormIdentifiesPolynomial : deg [0, 1, 2] < 2 := by decide
theorem witness_PolyMulConvolves : ([1, 2] : List Byte) ≠ [] ∧ ([3] : List Byte) ≠ [] := by decide
/-- PolyModIsTheRemainder: x^2 + 2x + 3 = (x + 3)(x + 1) + 0. -/
theorem witness_PolyModIsTheRemainder : norm [1, 1] ≠ [0] ∧ ([1, 3] : List Byte) ≠ [] ∧
    norm [0] = [0] ∧ (deg [0] < deg [1, 1] ∨ ([0] : List Byte) = [0]) ∧
    norm [1, 2, 3] = polyAdd (polyMul [1, 3] [1, 1]) [0] := by decide +kernel
/-- GeneratorIsProductOfRoots and the EC-byte obligations: the ends of the ranges of n and e. -/
theorem witness_degrees : 255 ≤ 255 ∧ 0 < 255 ∧ (1 ≤ 1 ∧ 1 ≤ 255) ∧ (1 ≤ 255 ∧ 255 ≤ 255) ∧
    ([0x10] : List Byte) ≠ [] := by decide
theorem witness_EcBytesAreLinear : ([1, 2] : List Byte) ≠ [] ∧
    ([1, 2] : List Byte).length = ([3, 4] : List Byte).length := by decide
theorem witness_GenPolyWritesGenerator : 255 ≤ (255 : Byte).toNat ∧ 0x3000 + (255 : Byte).toNat < 0x3100 := by
  decide
/-- PolyEvalCommandEvaluates: D = 0; a span one past the end; a span that ends at the last byte. -/
theorem witness_PolyEvalCommandEvaluates :
    (withOperands 0 0 0 0 0 []).argD = 0 ∧
    ((withOperands 0 2 0 0 4095 []).argD ≠ 0 ∧
      (withOperands 0 2 0 0 4095 []).argOff.toNat + (withOperands 0 2 0 0 4095 []).argD.toNat > 4096) ∧
    ((withOperands 0 1 0 0 4095 []).argD ≠ 0 ∧
      (withOperands 0 1 0 0 4095 []).argOff.toNat + (withOperands 0 1 0 0 4095 []).argD.toNat ≤
        4096) := by decide
/-- RsEncodeWritesEcBytes: one state for each clause, at the ends of the ranges. -/
theorem witness_RsEncodeWritesEcBytes :
    (withOperands 0 1 0 0 0 []).argK = 0 ∧ 255 < (withOperands 0 1 0 256 0 []).argK.toNat ∧
    ((withOperands 0 0 0 255 0 []).argK ≠ 0 ∧ (withOperands 0 0 0 255 0 []).argK.toNat ≤ 255 ∧
      (withOperands 0 0 0 255 0 []).argD = 0) ∧
    ((withOperands 0 2 0 1 4095 []).argK ≠ 0 ∧ (withOperands 0 2 0 1 4095 []).argD ≠ 0 ∧
      (withOperands 0 2 0 1 4095 []).argOff.toNat + (withOperands 0 2 0 1 4095 []).argD.toNat > 4096) ∧
    ((withOperands 0 2 0 255 4094 []).argK ≠ 0 ∧ (withOperands 0 2 0 255 4094 []).argK.toNat ≤ 255 ∧
      (withOperands 0 2 0 255 4094 []).argD ≠ 0 ∧
      (withOperands 0 2 0 255 4094 []).argOff.toNat + (withOperands 0 2 0 255 4094 []).argD.toNat ≤
        4096) := by decide
/-- GroupsReconstructTotal and DataSpansSumToD: T = D and T > D. -/
theorem witness_groups : (1 ≤ 1 ∧ 5 ≤ 5) ∧ (1 ≤ 3 ∧ 5 ≤ 10) := by decide
/-- RsBlockinfoReportsSizes: values of (T, D, B, K) for each clause. -/
theorem witness_RsBlockinfoReportsSizes :
    (withOperands 0 0 0 0 0 []).argB.toNat = 0 ∧
    ((withOperands 4097 0 1 0 0 []).argB.toNat ≠ 0 ∧ 4096 < (withOperands 4097 0 1 0 0 []).argT.toNat) ∧
    ((withOperands 4096 4097 1 0 0 []).argT.toNat ≤ 4096 ∧
      (withOperands 4096 4097 1 0 0 []).argT.toNat < (withOperands 4096 4097 1 0 0 []).argD.toNat) ∧
    ((withOperands 134 62 4 4 0 []).argD.toNat ≤ (withOperands 134 62 4 4 0 []).argT.toNat ∧
      (withOperands 134 62 4 4 0 []).argB.toNat ≤ (withOperands 134 62 4 4 0 []).argK.toNat) ∧
    ((withOperands 4096 4096 4 3 0 []).argT.toNat ≤ 4096 ∧
      (withOperands 4096 4096 4 3 0 []).argD.toNat ≤ (withOperands 4096 4096 4 3 0 []).argT.toNat ∧
      (withOperands 4096 4096 4 3 0 []).argK.toNat <
        (withOperands 4096 4096 4 3 0 []).argB.toNat) := by decide
/-- RsInterleaveAbortsInOrder: values of (T, D, B) for each clause. -/
theorem witness_RsInterleaveAbortsInOrder :
    (1 ≠ 0 ∧ 4096 < 4097) ∧ (1 ≠ 0 ∧ 5 ≤ 4096 ∧ 5 < 6) ∧ (3 ≠ 0 ∧ 1 ≤ 2 ∧ 2 / 3 = 1 / 3) ∧
    (1 ≤ 300 ∧ 255 < 300 / 1 - 1 / 1) ∧
    (2 ≤ 7 ∧ 1 ≤ 7 / 3 - 2 / 3 ∧ 7 / 3 - 2 / 3 ≤ 255 ∧ 2 < 3) ∧
    (5 ≤ 10 ∧ 1 ≤ 10 / 3 - 5 / 3 ∧ 10 / 3 - 5 / 3 ≤ 255 ∧ 1 ≤ 5 / 3 ∧ 5 % 3 ≠ 10 % 3) := by decide
/-- RsInterleaveWritesCodewords and EncodeAgreesWithInterleave: two unequal blocks, one block, the
largest EC count, and a block of group 2. -/
theorem witness_interleave : InterleaveLegal 11 5 2 ∧ InterleaveLegal 26 16 1 ∧
    InterleaveLegal 256 1 1 ∧ (2 - 11 % 2 ≤ 1 ∧ 1 < 2) := by decide
/-- InterleaveReadsDataOnly: two states that differ beyond the data. -/
theorem witness_InterleaveReadsDataOnly : ∃ t t',
    exec .rsInterleave (withOperands 3 2 1 0 0 [1, 2, 3]) = .next t ∧
    exec .rsInterleave (withOperands 3 2 1 0 0 [1, 2, 4]) = .next t' ∧
    (∀ i, i < 2 → (withOperands 3 2 1 0 0 [1, 2, 4]).byteAt .inMem i =
      (withOperands 3 2 1 0 0 [1, 2, 3]).byteAt .inMem i) :=
  ⟨_, _, rfl, rfl, by decide +kernel⟩
theorem witness_AbortChangesStatusOnly : ∃ t, exec (.gfInv 0) State.reset = .next t ∧
    t.status.err = true := ⟨_, rfl, rfl⟩
theorem witness_OtherCommandsKeepMemories : (∃ t, exec .nop State.reset = .next t) ∧
    (∀ n, Instr.nop ≠ .genPoly n) ∧ Instr.nop ≠ .rsEncode ∧ Instr.nop ≠ .rsInterleave :=
  ⟨⟨_, rfl⟩, nofun, nofun, nofun⟩
theorem witness_InvariantCodesUnreachable : ∃ t, exec .rsInterleave State.reset = .next t := ⟨_, rfl⟩
theorem witness_MisalignedAccessRefused : (0x0006 : BitVec 16).toNat % 4 ≠ 0 ∧
    (0xFFFF : BitVec 16).toNat % 4 ≠ 0 := by decide
theorem witness_UnmappedAndReadOnlyRefused :
    (0x30 ≤ (0x0030 : BitVec 16).toNat ∧ (0x0FFC : BitVec 16).toNat < 0x1000) ∧
    0x3200 ≤ (0x3200 : BitVec 16).toNat ∧ 0x2000 ≤ (0x2000 : BitVec 16).toNat := by decide
theorem witness_PartialRegisterWriteRefused : (0x002F : BitVec 16).toNat < 0x30 ∧
    (0b0011 : BitVec 4) ≠ 0b1111 ∧ (0x0008 : BitVec 16) = Reg.ctrl.offset ∧
    (0x0028 : BitVec 16) = Reg.argOff.offset ∧ State.reset.status.busy = false := by decide
/-- BusyWritesRefused: the ends of the refused ranges, and a write that sets ACCESS_ERR. -/
theorem witness_BusyWritesRefused : (pending 0 1 []).status.busy = true ∧
    (0x0018 : BitVec 16).toNat = 0x18 ∧ (0x0028 : BitVec 16).toNat % 4 = 0 ∧
    (0x1FFC : BitVec 16).toNat % 4 = 0 ∧ (0x1FFC : BitVec 16).toNat < 0x2000 ∧
    LockedWrite 0x0018 0b1111 ∧ LockedWrite 0x0028 0b1111 ∧ LockedWrite 0x1FFC 0 ∧
    (busWrite 0x1FFC 0 0 (pending 0 1 [])).1.status.accessErr = true ∧
    (pending 0 1 []).status.accessErr = false := by decide +kernel
/-- BusyWritesRefused and OnlyWritersChangeRegisters: a step that sets ACCESS_ERR and is no reset. -/
theorem witness_access_err_step : ∃ t, step (pending 0 1 [.write 0x1FFC 0 0]) = .next t ∧
    (pending 0 1 [.write 0x1FFC 0 0]).status.accessErr = false ∧ t.status.accessErr = true ∧
    ¬((pending 0 1 [.write 0x1FFC 0 0]).engineTurn = false ∧
      (pending 0 1 [.write 0x1FFC 0 0]).nextInputResets) := by
  refine ⟨_, rfl, rfl, by decide +kernel, fun h => ?_⟩
  rcases h.2 with ⟨level, hl⟩ | ⟨w, hw, -⟩
  · cases hl
  · cases hw
theorem witness_BusyReadsUnspecified : (pending 0 1 []).status.busy = true ∧
    (0x31FC : BitVec 16).toNat % 4 = 0 ∧ (0x31FC : BitVec 16).toNat < 0x3200 ∧
    (0x0010 : BitVec 16) = Reg.cmd.offset ∧ State.reset.status.busy = false := by decide
theorem witness_MemoryLanesLittleEndian : (0x1FFC : BitVec 16).toNat % 4 = 0 ∧
    0x1000 ≤ (0x1FFC : BitVec 16).toNat ∧ (0x1FFC : BitVec 16).toNat < 0x2000 ∧
    State.reset.status.busy = false ∧ (0b1000 : BitVec 4).getLsbD 3 = true := by decide
theorem witness_ReadsHaveNoSideEffect : Memory.wf (withOperands 0 0 0 0 0 [1, 2]).mem ∧
    (0x1000 : BitVec 16) ≠ 0x0008 ∧ (0x1000 : BitVec 16) ≠ 0x0010 := by decide +kernel
theorem witness_CmdWriteAcceptsCommand : State.reset.status.busy = false ∧
    (pending 0x00000006 0 []).status.busy = true ∧
    wellFormedWord (pending 0x00000006 0 []).cmd = false := by decide
theorem witness_CtrlWritePulses : (3#32).getLsbD 0 = true ∧
    ((2#32).getLsbD 0 = false ∧ (2#32).getLsbD 1 = true) ∧
    ((4#32).getLsbD 0 = false ∧ (4#32).getLsbD 1 = false) := by decide
theorem witness_ArgRegistersStoreLowHalf : State.reset.status.busy = false ∧
    Reg.argOff ∈ [Reg.argT, .argD, .argB, .argK, .argOff] := by decide
theorem witness_StepRunsDecodedCommand :
    ((pending 0x22 0 [.read 0]).status.busy = true ∧ (pending 0x22 0 [.read 0]).wait = 0 ∧
      decode (pending 0x22 0 [.read 0]).cmd = .command .rsInterleave) ∧
    ((pending 0x23 5 []).inputs = [] ∧
      decode (pending 0x23 5 []).cmd = .illegal .reservedOpcode) ∧
    decodeTableWord 32 0x00028002 = some (.gfMul 0x80 0x02) := by decide
theorem witness_StepPerformsNextInput :
    ((pending 0 1 [.read 4]).status.busy = true ∧ (pending 0 1 [.read 4]).wait ≠ 0 ∧
      (pending 0 1 [.read 4]).inputs ≠ []) ∧
    State.reset.inputs = [] ∧ Input.isTransaction (.read 4) = true ∧
    Input.isTransaction (.rst true) = false := by decide
theorem witness_StepKeepsInvariant : State.Inv (pending 0x00000110 0 []) ∧
    ∃ t, step (pending 0x00000110 0 []) = .next t := ⟨by decide, _, rfl⟩
theorem witness_OperandsStableWhilePending : (pending 0 1 [.read 4]).status.busy = true ∧
    ∃ t, step (pending 0 1 [.read 4]) = .next t ∧
      Host.Core.run Sys2Proof.core 1 (pending 0 1 [.read 4]) = .next t ∧ t.status.busy = true :=
  ⟨rfl, _, rfl, rfl, rfl⟩
theorem witness_PendingCommandEnds : (pending 0 7 [.read 4]).status.busy = true ∧
    (pending 0 7 [.read 4]).rst = false := by decide
theorem witness_RespectfulHostNeverStopsMachine :
    hostRespectsReset State.reset.rst [.read 4, .rst true, .rst false, .write 0x0010 0 0b1111] =
      true := by decide
/-- OnlyWritersChangeMemories: a byte changed by a host write, and one changed by GEN_POLY 0. -/
theorem witness_OnlyWritersChangeMemories :
    (∃ t, step { withOperands 0 0 0 0 0 [0xAB] with inputs := [.write 0x1000 0x11 0b0001] } = .next t ∧
      t.byteAtAddr 0x1000 ≠ (withOperands 0 0 0 0 0 [0xAB]).byteAtAddr 0x1000) ∧
    (∃ t, step (((State.reset.writeBytes .genMem 0 [0xFF])).placeCommand 0x10) = .next t ∧
      t.byteAtAddr 0x3000 ≠
        (((State.reset.writeBytes .genMem 0 [0xFF])).placeCommand 0x10).byteAtAddr 0x3000) :=
  ⟨⟨_, rfl, by decide +kernel⟩, ⟨_, rfl, by decide +kernel⟩⟩
/-- OnlyWritersChangeRegisters: BUSY and DONE changed by a completion, ERR and ERRCODE by an abort, BUSY
and DONE by an acceptance, and ERR and ACCESS_ERR by CTRL.CLR, from states that meet the invariant. -/
theorem witness_status_writers :
    (∃ t, step (pending 0 0 []) = .next t ∧ t.status.busy ≠ (pending 0 0 []).status.busy ∧
      t.status.done ≠ (pending 0 0 []).status.done ∧ State.Inv (pending 0 0 [])) ∧
    (∃ t, step (pending 6 0 []) = .next t ∧ t.status.err ≠ (pending 6 0 []).status.err ∧
      t.status.errcode ≠ (pending 6 0 []).status.errcode ∧ State.Inv (pending 6 0 [])) ∧
    (∃ t, step { State.reset with
        status := ⟨false, true, false, false, .none⟩, inputs := [wr .cmd 1] } = .next t ∧
      t.status.busy = true ∧ t.status.done = false) ∧
    State.Inv { State.reset with
      status := ⟨false, true, false, false, .none⟩, inputs := [wr .cmd 1] } ∧
    (∃ t, step { State.reset with
        status := ⟨false, false, true, true, .gfDomain⟩, inputs := [wr .ctrl 2] } = .next t ∧
      t.status.err = false ∧ t.status.accessErr = false) ∧
    State.Inv { State.reset with
      status := ⟨false, false, true, true, .gfDomain⟩, inputs := [wr .ctrl 2] } :=
  ⟨⟨_, rfl, by decide +kernel, by decide +kernel, by decide⟩,
    ⟨_, rfl, by decide +kernel, by decide +kernel, by decide⟩,
    ⟨_, rfl, by decide +kernel, by decide +kernel⟩, by decide,
    ⟨_, rfl, by decide +kernel, by decide +kernel⟩, by decide⟩
/-- OnlyWritersChangeRegisters: RESULT, GEN_DEG, CMD, ARG_K and IRQ_EN changed in one step each. -/
theorem witness_OnlyWritersChangeRegisters :
    (∃ t, step (pending 0x00000404 0 []) = .next t ∧ t.result ≠ (pending 0x00000404 0 []).result) ∧
    (∃ t, step (pending 0x00000110 0 []) = .next t ∧ t.genDeg ≠ (pending 0x00000110 0 []).genDeg) ∧
    (∃ t, step { State.reset with inputs := [wr .cmd 1] } = .next t ∧ t.cmd ≠ State.reset.cmd) ∧
    (∃ t, step { State.reset with inputs := [wr .argK 1] } = .next t ∧ t.argK ≠ State.reset.argK) ∧
    (∃ t, step { State.reset with inputs := [wr .irqEn 1] } = .next t ∧ t.irqEn ≠ State.reset.irqEn) :=
  ⟨⟨_, rfl, by decide +kernel⟩, ⟨_, rfl, by decide +kernel⟩, ⟨_, rfl, by decide +kernel⟩,
    ⟨_, rfl, by decide +kernel⟩, ⟨_, rfl, by decide +kernel⟩⟩
/-- OnlyWritersChangeRegisters: a step that is no reset. -/
theorem witness_no_reset : ¬((pending 0x00000404 0 []).engineTurn = false ∧
    (pending 0x00000404 0 []).nextInputResets) := fun h => absurd h.1 (by decide)

end Sys2Proof.Tests
end

section
/-! PROOFS. The words the decoder accepts (30_encoding.md R86 to R88), a read and a whole write of a register by its
kind (20_memory.md R64, R67, R68), the pulses of CTRL (10_state.md R29), and the obligations on CMD and CTRL. -/

namespace Sys2Proof

/-- One row of the opcode map, whichever format it has: with a mask that keeps bits 7..0 and the bits from `k` on, a
word selects the row of `op` exactly when its opcode is `op` and its bits from `k` on are 0. -/
theorem and_mask_eq_opcode_iff (w mask : Word) (op : Byte) {k : Nat} (hk : 8 ≤ k)
    (hmask : ∀ j, (hj : j < 32) → mask[j] = decide (j < 8 ∨ k ≤ j)) :
    w &&& mask = op.setWidth 32 ↔ opField w = op ∧ w.extractLsb' k (32 - k) = 0 := by
  constructor
  · intro h
    have bit : ∀ j < 32, (w.getLsbD j && decide (j < 8 ∨ k ≤ j)) = op.getLsbD j := fun j hj => by
      simpa [hj, hmask] using congrArg (·.getLsbD j) h
    refine ⟨BitVec.eq_of_getLsbD_eq fun j hj => ?_, BitVec.eq_of_getLsbD_eq fun j hj => ?_⟩
    · simpa [opField, hj] using bit j (by omega)
    · simpa [hj, show 8 ≤ k + j by omega] using bit (k + j) (by omega)
  · rintro ⟨rfl, hz⟩
    refine BitVec.eq_of_getLsbD_eq fun j hj => ?_
    by_cases hlow : j < 8
    · simp [opField, hmask, hj, hlow]
    · by_cases hhigh : k ≤ j
      · have := congrArg (·.getLsbD (j - k)) hz
        simpa [opField, hmask, hj, hlow, hhigh, show j - k < 32 - k by omega] using this
      · simp [opField, hmask, hj, hlow, hhigh]

/-- The rows of formats Z and R. -/
theorem and_mask_bare_iff (w p : Word) (hp : (p.setWidth 8).setWidth 32 = p) :
    w &&& 0xFFFFFFFF = p ↔ opField w = p.setWidth 8 ∧ w.extractLsb' 8 24 = 0 := by
  simpa only [hp] using and_mask_eq_opcode_iff w 0xFFFFFFFF (p.setWidth 8) (k := 8) (by decide) (by decide)

/-- The rows of format G1. -/
theorem and_mask_g1_iff (w p : Word) (hp : (p.setWidth 8).setWidth 32 = p) :
    w &&& 0xFFFF00FF = p ↔ opField w = p.setWidth 8 ∧ w.extractLsb' 16 16 = 0 := by
  simpa only [hp] using and_mask_eq_opcode_iff w 0xFFFF00FF (p.setWidth 8) (k := 16) (by decide) (by decide)

/-- The rows of format G2. -/
theorem and_mask_g2_iff (w p : Word) (hp : (p.setWidth 8).setWidth 32 = p) :
    w &&& 0xFF0000FF = p ↔ opField w = p.setWidth 8 ∧ w.extractLsb' 24 8 = 0 := by
  simpa only [hp] using and_mask_eq_opcode_iff w 0xFF0000FF (p.setWidth 8) (k := 24) (by decide) (by decide)

theorem decodeBare_eq_command (w : Word) (i j : Instr) :
    decodeBare w i = .command j ↔ w.extractLsb' 8 24 = 0 ∧ i = j := by
  unfold decodeBare; split <;> simp_all

theorem decodeG1_eq_command (w : Word) (f : Byte → Instr) (j : Instr) :
    decodeG1 w f = .command j ↔ w.extractLsb' 16 16 = 0 ∧ f (operandA w) = j := by
  unfold decodeG1; split <;> simp_all

theorem decodeG2_eq_command (w : Word) (f : Byte → Byte → Instr) (j : Instr) :
    decodeG2 w f = .command j ↔ w.extractLsb' 24 8 = 0 ∧ f (operandA w) (operandBv w) = j := by
  unfold decodeG2; split <;> simp_all

/-- The decoder accepts exactly the words that select a row of the opcode map (30_encoding.md R87, R88). -/
theorem wellFormedWord_iff_decode (w : Word) :
    wellFormedWord w = true ↔ ∃ i, decode w = .command i := by
  simp (disch := decide) only [wellFormedWord, opcodeMap, OpcodeRow.selects, List.any_append, List.any_cons,
    List.any_nil, Bool.or_false, Bool.or_eq_true, beq_iff_eq, and_mask_bare_iff, and_mask_g1_iff, and_mask_g2_iff]
  unfold decode
  repeat' split
  all_goals simp [*, decodeBare_eq_command, decodeG1_eq_command, decodeG2_eq_command]

end Sys2Proof

namespace Sys2Proof.Machine

/-- What the host reads of a register that stays visible while BUSY = 1 (20_memory.md R68). -/
theorem busRead_reg_visible {r : Reg} (s : State) (h : (Target.reg r).hiddenWhileBusy = false) :
    busRead r.offset s = (s.regWord r, .ok) := by
  simp [busRead_reg, h]

/-- A whole write of a writable register that the busy rule does not hold back (20_memory.md R64, R67). -/
theorem busWrite_reg_accepted {r : Reg} (w : Word) (s : State) (hro : (Target.reg r).readOnly = false)
    (h : s.status.busy = false ∨ (Target.reg r).lockedWhileBusy = false) :
    busWrite r.offset w 0b1111 s = (s.writeReg w r, .ok) := by
  rw [busWrite_reg, hro]
  rcases h with h | h <;> simp [h]

/-- A whole write of a register that the busy rule holds back (20_memory.md R67). -/
theorem busWrite_reg_refused {r : Reg} (w : Word) (s : State) (hro : (Target.reg r).readOnly = false)
    (hlock : (Target.reg r).lockedWhileBusy = true) (hb : s.status.busy = true) :
    busWrite r.offset w 0b1111 s = ({ s with status := s.status.accessRefused }, .busErr) := by
  rw [busWrite_reg, hro, hlock, hb]
  rfl

theorem State.writeCtrl_softReset {w : Word} (s : State) (h0 : w.getLsbD 0 = true) :
    s.writeCtrl w = s.softReset :=
  if_pos h0

theorem State.writeCtrl_clear {w : Word} (s : State) (h0 : w.getLsbD 0 = false) (h1 : w.getLsbD 1 = true) :
    s.writeCtrl w = { s with status := s.status.cleared } := by
  rw [State.writeCtrl, h0, h1]
  rfl

theorem State.writeCtrl_none {w : Word} (s : State) (h0 : w.getLsbD 0 = false) (h1 : w.getLsbD 1 = false) :
    s.writeCtrl w = s := by
  rw [State.writeCtrl, h0, h1]
  rfl

/-- A pending word that selects no row of the opcode map is aborted with ILLEGAL_CMD (30_encoding.md R88). -/
theorem complete_of_not_wellFormedWord {s : State} (h : wellFormedWord s.cmd = false) :
    complete s = .next (s.abort .illegalCmd) := by
  unfold complete
  split
  case h_1 i hi => simp [(wellFormedWord_iff_decode s.cmd).mpr ⟨i, hi⟩] at h
  case h_2 => rfl

/-- Settles O49: CMD is a writable register that the busy rule locks but does not hide, and its accepted write is
`State.accept`; the last clause is `complete_of_not_wellFormedWord`. -/
theorem cmdWriteAcceptsCommand : Obligations.CmdWriteAcceptsCommand := by
  unfold Obligations.CmdWriteAcceptsCommand
  refine ⟨fun w s hidle => ⟨s.accept w, ?_, rfl⟩, fun w s hbusy => ?_, fun s => ?_, rfl, fun s hill => ?_⟩
  · exact busWrite_reg_accepted (r := .cmd) w s rfl (.inl hidle)
  · have refused := busWrite_reg_refused (r := .cmd) w s rfl rfl hbusy
    exact ⟨congrArg (·.1.cmd) refused, congrArg (·.2) refused⟩
  · exact busRead_reg_visible (r := .cmd) s rfl
  · exact complete_of_not_wellFormedWord hill

/-- Settles O50: CTRL is never locked or hidden, so a write is `State.writeCtrl`, by cases on bits 0 and 1. -/
theorem ctrlWritePulses : Obligations.CtrlWritePulses := by
  unfold Obligations.CtrlWritePulses
  intro w s
  have accepted : busWrite 0x0008 w 0b1111 s = (s.writeCtrl w, .ok) :=
    busWrite_reg_accepted (r := .ctrl) w s rfl (.inr rfl)
  rw [accepted]
  refine ⟨busRead_reg_visible (r := .ctrl) s rfl, fun h0 => ?_, fun h0 h1 => ?_, fun h0 h1 => ?_⟩
  · rw [s.writeCtrl_softReset h0]
  · rw [s.writeCtrl_clear h0 h1]; rfl
  · rw [s.writeCtrl_none h0 h1]

end Sys2Proof.Machine
end

section
/-! PROOFS. The checks of a bus transaction one by one (20_memory.md R61, R64, R65, R67, R69), the words of the memory
windows and their lanes (R62), what can set ACCESS_ERR (R67), and the obligations on the bus. -/

namespace Sys2Proof.Machine

/-! ### The address map -/

/-- Below the memory windows an address names a register or nothing. -/
theorem targetOf_below {addr : BitVec 16} (h : addr.toNat < 0x1000) :
    targetOf addr = .unmapped ∨ ∃ r, targetOf addr = .reg r := by
  cases ht : targetOf addr with
  | unmapped => exact .inl rfl
  | reg r => exact .inr ⟨r, rfl⟩
  | word sp i =>
    obtain ⟨hbase, -⟩ := targetOf_word ht
    cases sp <;> simp only [Space.base] at hbase <;> omega

theorem targetOf_unmapped {addr : BitVec 16}
    (h : 0x30 ≤ addr.toNat ∧ addr.toNat < 0x1000 ∨ 0x3200 ≤ addr.toNat) :
    targetOf addr = .unmapped := by
  rw [targetOf_above (by omega), if_neg (by omega), if_neg (by omega), if_neg (by omega), if_neg (by omega)]

theorem targetOf_inMem {addr : BitVec 16} (hlo : 0x1000 ≤ addr.toNat) (hhi : addr.toNat < 0x2000) :
    targetOf addr = .word .inMem (addr.toNat - 0x1000) := by
  rw [targetOf_above (by omega), if_pos ⟨hlo, hhi⟩]

/-- Every address of the windows names the word of a memory. -/
theorem exists_targetOf_eq_word {addr : BitVec 16} (hlo : 0x1000 ≤ addr.toNat) (hhi : addr.toNat < 0x3200) :
    ∃ sp i, targetOf addr = .word sp i := by
  rw [targetOf_above (by omega)]
  split_ifs
  case neg => omega
  all_goals exact ⟨_, _, rfl⟩

/-- The host writes nothing at or above OUT_MEM (20_memory.md R69). -/
theorem readOnly_of_above_inMem {addr : BitVec 16} (h : 0x2000 ≤ addr.toNat) :
    (targetOf addr).readOnly = true := by
  rw [targetOf_above (by omega), if_neg (by omega)]
  split_ifs <;> rfl

/-- The offsets 0x18 to 0x28 are those of the five ARG registers (10_state.md R21). -/
theorem eq_offset_of_arg_range {addr : BitVec 16} (h4 : addr.toNat % 4 = 0) (hlo : 0x18 ≤ addr.toNat)
    (hhi : addr.toNat ≤ 0x28) : ∃ r ∈ [Reg.argT, .argD, .argB, .argK, .argOff], addr = r.offset := by
  have offsets : addr.toNat = 0x18 ∨ addr.toNat = 0x1C ∨ addr.toNat = 0x20 ∨ addr.toNat = 0x24 ∨
      addr.toNat = 0x28 := by omega
  simpa [Reg.offset, ← BitVec.toNat_inj] using offsets

/-- Of the memories the busy rule locks IN_MEM only (20_memory.md R67). -/
theorem Target.word_locked {sp : Space} {i : Nat} :
    (Target.word sp i).lockedWhileBusy = true ↔ sp = .inMem := by
  cases sp <;> simp [Target.lockedWhileBusy]

/-- A locked target is one the host may write. -/
theorem Target.readOnly_of_locked {tgt : Target} (h : tgt.lockedWhileBusy = true) : tgt.readOnly = false := by
  cases tgt with
  | unmapped => cases h
  | reg r =>
    revert h
    cases r <;> decide
  | word sp i =>
    obtain rfl := Target.word_locked.mp h
    rfl

/-- The writes that the busy rule holds back are those of aligned addresses that name a locked target with strobes
that the target takes (20_memory.md R67). -/
theorem lockedWrite_iff {addr : BitVec 16} {strb : BitVec 4} :
    LockedWrite addr strb ↔
      aligned addr = true ∧ (targetOf addr).lockedWhileBusy = true ∧ (targetOf addr).strobeOk strb = true := by
  rw [LockedWrite, aligned_iff]
  refine and_congr_right fun h4 => ⟨?_, ?_⟩
  · rintro (⟨hcmd | ⟨hlo, hhi⟩, rfl⟩ | ⟨hlo, hhi⟩)
    · rw [hcmd]; exact ⟨rfl, rfl⟩
    · obtain ⟨r, hr, rfl⟩ := eq_offset_of_arg_range h4 hlo hhi
      rw [targetOf_offset]
      revert hr
      cases r <;> decide
    · rw [targetOf_inMem hlo hhi]; exact ⟨rfl, rfl⟩
  · rintro ⟨hlock, hstrb⟩
    cases ht : targetOf addr with
    | unmapped => simp [ht, Target.lockedWhileBusy] at hlock
    | reg r =>
      rw [ht] at hlock hstrb
      refine .inl ⟨?_, by simpa [Target.strobeOk] using hstrb⟩
      rw [targetOf_eq_reg.mp ht]
      revert hlock
      cases r <;> decide
    | word sp i =>
      obtain rfl := Target.word_locked.mp (ht ▸ hlock)
      obtain ⟨hbase, hsize⟩ := targetOf_word ht
      simp only [Space.base, Space.size, Config.bufBytes] at hbase hsize
      exact .inr (by omega)

/-! ### The checks of a transaction -/

section

variable {addr : BitVec 16} (w : Word) {strb : BitVec 4} (s : State)

theorem busRead_of_misaligned (h : aligned addr = false) : busRead addr s = (0, .busErr) := by
  simp [busRead, h]

theorem busRead_of_unmapped (h : targetOf addr = .unmapped) : busRead addr s = (0, .busErr) := by
  simp [busRead, h]

/-- The read of a memory word by an idle block's host (20_memory.md R62, R68). -/
theorem busRead_word_idle {sp : Space} {i : Nat} (ha : aligned addr = true)
    (ht : targetOf addr = .word sp i) (hidle : s.status.busy = false) :
    busRead addr s = (s.memWord sp i, .ok) := by
  simp [busRead, ha, ht, hidle]

theorem busWrite_of_misaligned (h : aligned addr = false) : busWrite addr w strb s = (s, .busErr) := by
  simp [busWrite, h]

theorem busWrite_of_readOnly (h : (targetOf addr).readOnly = true) :
    busWrite addr w strb s = (s, .busErr) := by
  simp [busWrite, h]

theorem busWrite_of_strobes (h : (targetOf addr).strobeOk strb = false) :
    busWrite addr w strb s = (s, .busErr) := by
  simp [busWrite, h]

/-- The busy rule, which comes after every other check (20_memory.md R67). -/
theorem busWrite_of_lockedWrite (hbusy : s.status.busy = true) (h : LockedWrite addr strb) :
    busWrite addr w strb s = ({ s with status := s.status.accessRefused }, .busErr) := by
  obtain ⟨ha, hlock, hstrb⟩ := lockedWrite_iff.mp h
  simp [busWrite, ha, hlock, hstrb, hbusy, Target.readOnly_of_locked hlock]

/-- The write of an IN_MEM word to an idle block (20_memory.md R65). -/
theorem busWrite_inMem_idle {i : Nat} (ha : aligned addr = true) (ht : targetOf addr = .word .inMem i)
    (hidle : s.status.busy = false) :
    busWrite addr w strb s = (s.writeLanes .inMem i w strb, .ok) := by
  simp [busWrite, ha, ht, hidle, Target.readOnly, Target.strobeOk, State.writeTarget]

end

/-! ### Lanes -/

/-- Lane `l` of a memory word is the byte at its address plus `l` (20_memory.md R62). -/
theorem extract_memWord (s : State) (sp : Space) (i : Nat) {l : Nat} (hl : l < 4) :
    (s.memWord sp i).extractLsb' (8 * l) 8 = s.byteAtAddr (sp.base + i + l) := by
  rw [Nat.add_assoc]
  unfold State.memWord
  interval_cases l
  · exact extract_low _ _
  · exact (extract_high _ _ 0 8).trans (extract_low _ _)
  · exact (extract_high _ _ 8 8).trans ((extract_high _ _ 0 8).trans (extract_low _ _))
  · exact (extract_high _ _ 16 8).trans ((extract_high _ _ 8 8).trans
      ((extract_high _ _ 0 8).trans BitVec.extractLsb'_eq_self))

/-- A byte inside a written word is its lane of the data where the strobe is 1 (20_memory.md R65). -/
theorem State.byteAtAddr_writeLanes_inside (s : State) (sp : Space) (i : Nat) (w : Word) (strb : BitVec 4)
    {l : Nat} (hl : l < 4) :
    (s.writeLanes sp i w strb).byteAtAddr (sp.base + i + l) =
      if strb.getLsbD l then w.extractLsb' (8 * l) 8 else s.byteAtAddr (sp.base + i + l) := by
  simp [State.byteAtAddr_writeLanes, hl, lane]

theorem State.byteAtAddr_writeLanes_outside (s : State) (sp : Space) (i : Nat) (w : Word) (strb : BitVec 4)
    {a : Nat} (h : a < sp.base + i ∨ sp.base + i + 4 ≤ a) :
    (s.writeLanes sp i w strb).byteAtAddr a = s.byteAtAddr a := by
  rw [State.byteAtAddr_writeLanes, if_neg (by omega)]

/-! ### ACCESS_ERR -/

@[simp] theorem State.writeLanes_status (s : State) (sp : Space) (i : Nat) (w : Word) (strb : BitVec 4) :
    (s.writeLanes sp i w strb).status = s.status := by
  rw [State.writeLanes_eq]

@[simp] theorem State.doWrite_status (s : State) (addr : BitVec 16) (w : Word) (strb : BitVec 4) :
    (s.doWrite addr w strb).status = (busWrite addr w strb s).1.status := rfl

@[simp] theorem State.doWait_status (s : State) : s.doWait.status = s.status := by
  unfold State.doWait
  split <;> rfl

/-- A change of the reset input leaves STATUS or clears it (70_reset_and_hazards.md R230). -/
theorem State.setRst_accessErr {s : State} {level : Bool} (h : (s.setRst level).status.accessErr = true) :
    s.status.accessErr = true := by
  unfold State.setRst at h
  split at h
  · cases h
  · split at h
    · cases h
    · exact h

/-- What a successful command writes leaves STATUS to the completion. -/
theorem Writes.status_eq {s u : State} (h : Writes s u) : u.status = s.status := by
  cases h <;> rfl

/-- A command keeps ACCESS_ERR, however it ends (60_exceptions.md R204, R206). -/
theorem exec_accessErr {i : Instr} {s t : State} (h : exec i s = .next t) :
    t.status.accessErr = s.status.accessErr := by
  rcases exec_cases i s with ⟨c, -, ho⟩ | ⟨u, hu, ho⟩ <;>
    obtain rfl := Host.Outcome.next.inj (h.symm.trans ho)
  · rfl
  · simp [hu.status_eq]

/-- A write of CTRL clears ACCESS_ERR or leaves it (10_state.md R29). -/
theorem State.writeCtrl_accessErr {s : State} {w : Word} (h : (s.writeCtrl w).status.accessErr = true) :
    s.status.accessErr = true := by
  unfold State.writeCtrl at h
  split at h
  · cases h
  · split at h
    · cases h
    · exact h

/-- No accepted write sets ACCESS_ERR. -/
theorem State.writeTarget_accessErr {s : State} {w : Word} {strb : BitVec 4} {tgt : Target}
    (h : (s.writeTarget w strb tgt).status.accessErr = true) : s.status.accessErr = true := by
  cases tgt with
  | unmapped => exact h
  | word sp i => simpa [State.writeTarget] using h
  | reg r =>
    cases r
    case ctrl => exact State.writeCtrl_accessErr h
    all_goals exact h

/-- A write that sets ACCESS_ERR has passed the checks of alignment and strobes and been refused by the busy rule
(20_memory.md R67). -/
theorem lockedWrite_of_sets_accessErr {addr : BitVec 16} {w : Word} {strb : BitVec 4} {s : State}
    (hset : (busWrite addr w strb s).1.status.accessErr = true) (hclear : s.status.accessErr = false) :
    s.status.busy = true ∧ LockedWrite addr strb := by
  have changed : busWrite addr w strb s ≠ (s, .busErr) := fun h => by simp [h, hclear] at hset
  have ha : aligned addr = true := by
    by_contra h
    exact changed (busWrite_of_misaligned w s (by simpa using h))
  have hstrb : (targetOf addr).strobeOk strb = true := by
    by_contra h
    exact changed (busWrite_of_strobes w s (by simpa using h))
  rcases busWrite_cases addr w strb s with h | ⟨hbusy, hlock, -⟩ | ⟨-, -, -, -, h⟩
  · exact absurd h changed
  · exact ⟨hbusy, lockedWrite_iff.mpr ⟨ha, hlock, hstrb⟩⟩
  · rw [h] at hset
    simp [State.writeTarget_accessErr hset] at hclear

/-- Of the host's inputs only a write that the busy rule refuses sets ACCESS_ERR. -/
theorem perform_sets_accessErr {s : State} {i : Input} (hset : (s.perform i).status.accessErr = true)
    (hclear : s.status.accessErr = false) :
    s.status.busy = true ∧ ∃ addr w strb, i = .write addr w strb ∧ LockedWrite addr strb := by
  cases i with
  | write addr w strb =>
    obtain ⟨hbusy, hlocked⟩ := lockedWrite_of_sets_accessErr hset hclear
    exact ⟨hbusy, addr, w, strb, rfl, hlocked⟩
  | read addr => simp [State.perform, hclear] at hset
  | waitIdle => simp [State.perform, hclear] at hset
  | rst level => simp [State.setRst_accessErr hset] at hclear

/-- A step that sets ACCESS_ERR is the host's step with a write that the busy rule refuses: completions, aborts and
idle steps keep it. -/
theorem step_sets_accessErr {s t : State} (h : step s = .next t) (hclear : s.status.accessErr = false)
    (hset : t.status.accessErr = true) : s.engineTurn = false ∧ s.nextInputRefused := by
  rcases step_cases h with ⟨-, i, -, hexec⟩ | ⟨-, -, rfl⟩ | ⟨-, -, rfl⟩ | ⟨hturn, i, rest, hin, -, rfl⟩
  · simp [exec_accessErr hexec, hclear] at hset
  · simp [hclear] at hset
  · simp [hclear] at hset
  · obtain ⟨hbusy, addr, w, strb, rfl, hlocked⟩ := perform_sets_accessErr hset hclear
    exact ⟨hturn, hbusy, addr, w, strb, by rw [hin]; rfl, hlocked⟩

/-! ### The obligations -/

/-- Settles O42: alignment is the first check of both transactions. -/
theorem misalignedAccessRefused : Obligations.MisalignedAccessRefused := by
  unfold Obligations.MisalignedAccessRefused
  intro addr w strb s h
  have misaligned : aligned addr = false := by simpa [← aligned_iff] using h
  exact ⟨busRead_of_misaligned s misaligned, busWrite_of_misaligned w s misaligned⟩

/-- Settles O43: the refused addresses are those whose target is unmapped or read-only, by `targetOf_unmapped`,
`readOnly_of_above_inMem` and the offsets of the four read-only registers. -/
theorem unmappedAndReadOnlyRefused : Obligations.UnmappedAndReadOnlyRefused := by
  unfold Obligations.UnmappedAndReadOnlyRefused
  refine ⟨fun addr s h => busRead_of_unmapped s (targetOf_unmapped h), fun addr w strb s h => ?_,
    fun s => busRead_reg_visible (r := .ctrl) s rfl⟩
  apply busWrite_of_readOnly
  rcases h with h | h | rfl | rfl | rfl | rfl
  · rw [targetOf_unmapped (.inl h)]; rfl
  · exact readOnly_of_above_inMem h
  · exact congrArg Target.readOnly (targetOf_offset .id)
  · exact congrArg Target.readOnly (targetOf_offset .status)
  · exact congrArg Target.readOnly (targetOf_offset .result)
  · exact congrArg Target.readOnly (targetOf_offset .genDeg)

/-- Settles O44: below 0x30 a target is nothing or a register, and a register takes the strobes 1111 only; a whole write
is `busWrite_reg_accepted`, since CTRL and IRQ_EN are never locked. -/
theorem partialRegisterWriteRefused : Obligations.PartialRegisterWriteRefused := by
  unfold Obligations.PartialRegisterWriteRefused
  refine fun addr w strb s hlow => ⟨fun hstrb => ?_, fun r haddr hmem hfree => ?_⟩
  · rcases targetOf_below (addr := addr) (by omega) with ht | ⟨r, ht⟩
    · exact busWrite_of_readOnly w s (by rw [ht]; rfl)
    · exact busWrite_of_strobes w s (by simpa [ht, Target.strobeOk] using hstrb)
  · have writable : (Target.reg r).readOnly = false := by
      revert hmem
      cases r <;> decide
    rw [haddr]
    refine busWrite_reg_accepted w s writable (hfree.imp_right ?_)
    rintro (rfl | rfl) <;> rfl

/-- Settles O45: the busy rule is `busWrite_of_lockedWrite`, and only it sets ACCESS_ERR
(`lockedWrite_of_sets_accessErr` for a write, `step_sets_accessErr` for a step). -/
theorem busyWritesRefused : Obligations.BusyWritesRefused := by
  unfold Obligations.BusyWritesRefused
  refine ⟨fun addr w strb s => ?_, fun s t => step_sets_accessErr⟩
  have ctrl := busWrite_reg_accepted (r := .ctrl) w s rfl (.inr rfl)
  have irqEn := busWrite_reg_accepted (r := .irqEn) w s rfl (.inr rfl)
  refine ⟨busWrite_of_lockedWrite w s, lockedWrite_of_sets_accessErr, ?_, irqEn⟩
  rintro (rfl | rfl)
  · exact congrArg Prod.snd ctrl
  · exact congrArg Prod.snd irqEn

/-- Settles O47: an idle read answers `memWord`, an idle write to IN_MEM is `writeLanes`, and the read back goes through
the byte that the write left. -/
theorem memoryLanesLittleEndian : Obligations.MemoryLanesLittleEndian := by
  unfold Obligations.MemoryLanesLittleEndian
  constructor
  · intro addr s h4 hlo hhi hidle
    obtain ⟨sp, i, ht⟩ := exists_targetOf_eq_word hlo hhi
    refine ⟨_, busRead_word_idle s (aligned_iff.mpr h4) ht hidle, fun l hl => ?_⟩
    rw [extract_memWord s sp i hl, (targetOf_word ht).1]
  · intro addr w strb s h4 hlo hhi hidle
    have ha := aligned_iff.mpr h4
    have ht := targetOf_inMem hlo hhi
    have base := (targetOf_word ht).1
    rw [← base]
    refine ⟨_, _, busWrite_inMem_idle w s ha ht hidle, State.writeLanes_eq ..,
      busRead_word_idle _ ha ht (by simpa using hidle), fun l hl => ?_, fun l hl hs => ?_, fun a h => ?_⟩
    · exact State.byteAtAddr_writeLanes_inside s _ _ w strb hl
    · rw [extract_memWord _ _ _ hl, State.byteAtAddr_writeLanes_inside s _ _ w strb hl, if_pos hs]
    · exact State.byteAtAddr_writeLanes_outside s _ _ w strb h

end Sys2Proof.Machine
end

section
/-! PROOFS. A word that decodes is the word of its command (30_encoding.md R81 to R87), and the obligation on the opcode
map (R88). -/

namespace Sys2Proof

/-- A word of format Z or R with its must-be-zero field 0 is laid out from its opcode. -/
theorem encodeBare_opField {w : Word} (hz : w.extractLsb' 8 24 = 0) : encodeBare (opField w) = w := by
  rw [mbz_bare_iff] at hz
  rw [← BitVec.toNat_inj, encodeBare_toNat, opField_toNat]
  omega

/-- A word of format G1 with its must-be-zero field 0 is laid out from its opcode and its operand. -/
theorem encodeG1_opField {w : Word} (hz : w.extractLsb' 16 16 = 0) :
    encodeG1 (opField w) (operandA w) = w := by
  rw [mbz_g1_iff] at hz
  rw [← BitVec.toNat_inj, encodeG1_toNat, opField_toNat, operandA_toNat]
  omega

/-- A word of format G2 with its must-be-zero field 0 is laid out from its opcode and its two operands. -/
theorem encodeG2_opField {w : Word} (hz : w.extractLsb' 24 8 = 0) :
    encodeG2 (opField w) (operandA w) (operandBv w) = w := by
  rw [mbz_g2_iff] at hz
  rw [← BitVec.toNat_inj, encodeG2_toNat, opField_toNat, operandA_toNat, operandBv_toNat]
  omega

section

variable {w : Word} {op : Byte} {i : Instr}

theorem encode_of_decodeBare {j : Instr} (hop : opField w = op) (layout : encode j = encodeBare op)
    (h : decodeBare w j = .command i) : encode i = w := by
  subst hop
  obtain ⟨hz, rfl⟩ := (decodeBare_eq_command ..).mp h
  exact layout.trans (encodeBare_opField hz)

theorem encode_of_decodeG1 {f : Byte → Instr} (hop : opField w = op)
    (layout : ∀ a, encode (f a) = encodeG1 op a) (h : decodeG1 w f = .command i) : encode i = w := by
  subst hop
  obtain ⟨hz, rfl⟩ := (decodeG1_eq_command ..).mp h
  exact (layout _).trans (encodeG1_opField hz)

theorem encode_of_decodeG2 {f : Byte → Byte → Instr} (hop : opField w = op)
    (layout : ∀ a bv, encode (f a bv) = encodeG2 op a bv) (h : decodeG2 w f = .command i) : encode i = w := by
  subst hop
  obtain ⟨hz, rfl⟩ := (decodeG2_eq_command ..).mp h
  exact (layout _ _).trans (encodeG2_opField hz)

/-- A word that decodes to a command is the one word of that command, by the case list of R87. -/
theorem encode_of_decode (h : decode w = .command i) : encode i = w := by
  revert h
  unfold decode
  repeat' split
  next hop => exact encode_of_decodeBare hop rfl
  next hop => exact encode_of_decodeG2 hop fun _ _ => rfl
  next hop => exact encode_of_decodeG2 hop fun _ _ => rfl
  next hop => exact encode_of_decodeG1 hop fun _ => rfl
  next hop => exact encode_of_decodeG1 hop fun _ => rfl
  next hop => exact encode_of_decodeG1 hop fun _ => rfl
  next hop => exact encode_of_decodeG1 hop fun _ => rfl
  next hop => exact encode_of_decodeG1 hop fun _ => rfl
  next hop => exact encode_of_decodeBare hop rfl
  next hop => exact encode_of_decodeBare hop rfl
  next hop => exact encode_of_decodeBare hop rfl
  next => exact nofun

end

/-- OP of a command's word (30_encoding.md R80, R86). -/
theorem opField_encode (i : Instr) : opField (encode i) = opcode i := by
  cases i with
  | nop | rsEncode | rsBlockinfo | rsInterleave => exact opField_encodeBare _
  | gfInv | gfExp | gfLog | genPoly | polyEval => exact opField_encodeG1 _ _
  | gfAdd | gfMul => exact opField_encodeG2 _ _ _

/-- The three runs of opcodes that R86 assigns. -/
theorem opcode_ranges (i : Instr) : (opcode i).toNat ≤ 0x05 ∨
    0x10 ≤ (opcode i).toNat ∧ (opcode i).toNat ≤ 0x11 ∨
    0x20 ≤ (opcode i).toNat ∧ (opcode i).toNat ≤ 0x22 := by
  cases i <;> simp [opcode]

/-- The low byte of a well-formed word lies in one of the three runs of opcodes. -/
theorem opcode_ranges_of_wellFormedWord {w : Word} (h : wellFormedWord w = true) :
    w.toNat % 256 ≤ 0x05 ∨ 0x10 ≤ w.toNat % 256 ∧ w.toNat % 256 ≤ 0x11 ∨
      0x20 ≤ w.toNat % 256 ∧ w.toNat % 256 ≤ 0x22 := by
  obtain ⟨i, hi⟩ := (wellFormedWord_iff_decode w).mp h
  rw [← opField_toNat, ← encode_of_decode hi, opField_encode]
  exact opcode_ranges i

end Sys2Proof

namespace Sys2Proof.Machine

/-- Settles O7: the map and the decoder agree by `wellFormedWord_iff_decode`, and a reserved opcode is outside the three
runs of opcodes. An idle block accepts any word, since the write does not look at it, and `complete` aborts what selects
no row. NOP has one word, as every command has. -/
theorem decoderMeetsOpcodeMap : Obligations.DecoderMeetsOpcodeMap := by
  unfold Obligations.DecoderMeetsOpcodeMap
  refine fun w => ⟨wellFormedWord_iff_decode w, fun reserved => ?_, fun hill => ⟨fun s hidle => ?_, ?_⟩,
    fun hnop => ?_⟩
  · rw [← Bool.not_eq_true]
    intro hwf
    have := opcode_ranges_of_wellFormedWord hwf
    omega
  · exact congrArg Prod.snd (busWrite_reg_accepted (r := .cmd) w s rfl (.inl hidle))
  · rintro s rfl
    exact complete_of_not_wellFormedWord hill
  · exact (encode_of_decode hnop).symm

end Sys2Proof.Machine
end

section
/-! PROOFS. The product of 40_gf_arith.md R104 as polynomials over GF(2) is additive in each factor, so its laws need a
check on the eight powers of x only; the tables of R102 and R103; and that the two forms of R104 agree. -/

namespace Sys2Proof.Machine

/-! ### The product of polynomials is additive in each factor -/

/-- Selecting a term by a sum of two bits adds the two selections. -/
theorem ite_xor_bits (p q : Bool) (x : Nat) :
    (if p ^^ q then x else 0) = (if p then x else 0) ^^^ (if q then x else 0) := by
  cases p <;> cases q <;> simp

theorem carrylessMul_succ (a b n : Nat) :
    carrylessMul a b (n + 1) = carrylessMul a b n ^^^ (if b.testBit n then a <<< n else 0) := by
  rw [carrylessMul]
  split <;> simp

theorem reducePoly_succ (v n : Nat) :
    reducePoly v (n + 1) = reducePoly (v ^^^ if v.testBit (8 + n) then Config.primPoly <<< n else 0) n := by
  rw [reducePoly]
  split <;> simp

theorem carrylessMul_xor_left (a a' b n : Nat) :
    carrylessMul (a ^^^ a') b n = carrylessMul a b n ^^^ carrylessMul a' b n := by
  induction n with
  | zero => simp [carrylessMul]
  | succ n ih =>
    unfold carrylessMul
    split
    · rw [ih, Nat.shiftLeft_xor_distrib]; ac_rfl
    · exact ih

theorem carrylessMul_xor_right (a b b' n : Nat) :
    carrylessMul a (b ^^^ b') n = carrylessMul a b n ^^^ carrylessMul a b' n := by
  induction n with
  | zero => simp [carrylessMul]
  | succ n ih =>
    simp only [carrylessMul_succ, Nat.testBit_xor, ite_xor_bits, ih]
    ac_rfl

/-- Reduction is additive: the top bit of a sum is the sum of the top bits. -/
theorem reducePoly_xor (v w n : Nat) : reducePoly (v ^^^ w) n = reducePoly v n ^^^ reducePoly w n := by
  induction n generalizing v w with
  | zero => rfl
  | succ n ih =>
    simp only [reducePoly_succ, Nat.testBit_xor, ite_xor_bits, ← ih]
    congr 1
    ac_rfl

theorem gfMulPoly_xor_left (a a' b : Byte) :
    gfMulPoly (a ^^^ a') b = gfMulPoly a b ^^^ gfMulPoly a' b := by
  rw [gfMulPoly, BitVec.toNat_xor, carrylessMul_xor_left, reducePoly_xor, BitVec.ofNat_xor]
  rfl

theorem gfMulPoly_xor_right (a b b' : Byte) :
    gfMulPoly a (b ^^^ b') = gfMulPoly a b ^^^ gfMulPoly a b' := by
  rw [gfMulPoly, BitVec.toNat_xor, carrylessMul_xor_right, reducePoly_xor, BitVec.ofNat_xor]
  rfl

@[simp] theorem gfMulPoly_zero_left (b : Byte) : gfMulPoly 0 b = 0 := by
  simpa using gfMulPoly_xor_left 0 0 b

@[simp] theorem gfMulPoly_zero_right (a : Byte) : gfMulPoly a 0 = 0 := by
  simpa using gfMulPoly_xor_right a 0 0

/-! ### Laws that follow from a basis -/

/-- A byte is the sum of the powers of x at its set bits. -/
theorem byte_eq_sum_powers (a : Byte) :
    a = (((List.range 8).filter a.getLsbD).map (BitVec.twoPow 8)).foldr (· ^^^ ·) 0 := by
  revert a; decide +kernel

/-- What holds of 1, x, ..., x^7 and is kept by addition holds of every byte. -/
theorem byte_induction {p : Byte → Prop} (xor : ∀ a b, p a → p b → p (a ^^^ b))
    (power : ∀ i : Fin 8, p (BitVec.twoPow 8 i)) (a : Byte) : p a := by
  have sum : ∀ l : List Nat, (∀ i ∈ l, i < 8) → p ((l.map (BitVec.twoPow 8)).foldr (· ^^^ ·) 0) := by
    intro l hl
    induction l with
    | nil => simpa using xor _ _ (power 0) (power 0)
    | cons i l ih =>
      obtain ⟨hi, hl⟩ := List.forall_mem_cons.mp hl
      exact xor _ _ (power ⟨i, hi⟩) (ih hl)
  rw [byte_eq_sum_powers a]
  exact sum _ fun i hi => List.mem_range.mp (List.mem_of_mem_filter hi)

theorem gfMulPoly_one (a : Byte) : gfMulPoly a 1 = a := by
  induction a using byte_induction with
  | xor a b ha hb => rw [gfMulPoly_xor_left, ha, hb]
  | power i => revert i; decide

/-- The product is associative: both sides are additive in each of the three factors. -/
theorem gfMulPoly_assoc (a b c : Byte) :
    gfMulPoly (gfMulPoly a b) c = gfMulPoly a (gfMulPoly b c) := by
  induction a using byte_induction with
  | xor a a' ha ha' => simp only [gfMulPoly_xor_left, ha, ha']
  | power i =>
    induction b using byte_induction with
    | xor b b' hb hb' => simp only [gfMulPoly_xor_left, gfMulPoly_xor_right, hb, hb']
    | power j =>
      induction c using byte_induction with
      | xor c c' hc hc' => simp only [gfMulPoly_xor_right, hc, hc']
      | power k => revert i j k; decide +kernel

/-- The doubling step of the recurrence of R102 is the product with α. -/
theorem gfMulPoly_alpha (a : Byte) : (gfMulPoly a Config.alpha).toNat = timesAlpha a.toNat := by
  revert a; decide +kernel

/-! ### The tables -/

/-- Each printed entry of EXP is the one before it, times α (40_gf_arith.md R102). -/
theorem expOf_succ {i : Nat} (hi : i < 255) : expOf (i + 1) = gfMulPoly (expOf i) Config.alpha := by
  revert i; decide +kernel

theorem expOf_toNat {i : Nat} (hi : i < 256) : (expOf i).toNat = expRec i := by
  induction i with
  | zero => rfl
  | succ i ih => rw [expOf_succ (by omega), gfMulPoly_alpha, ih (by omega), expRec]

/-- The printed LOG at the printed EXP (40_gf_arith.md R103); EXP[255] is EXP[0] again. -/
theorem logOf_expOf {i : Nat} (hi : i < 256) : logOf (expOf i) = some (i % 255) := by
  revert i; decide +kernel

theorem logOf_expOf_of_lt {i : Nat} (hi : i < 255) : logOf (expOf i) = some i := by
  rw [logOf_expOf (by omega), Nat.mod_eq_of_lt hi]

theorem expOf_ne_zero {i : Nat} (hi : i < 256) : expOf i ≠ 0 := by
  intro h
  have log := logOf_expOf hi
  rw [h] at log
  cases log

/-- The printed EXP at the printed LOG (40_gf_arith.md R103). -/
theorem exists_log (a : Byte) (ha : a ≠ 0) : ∃ i, i ≤ 254 ∧ logOf a = some i ∧ expOf i = a := by
  have entry : ∀ b : Byte, b ≠ 0 →
      tableEntry logRows b.toNat ≤ 254 ∧ expOf (tableEntry logRows b.toNat) = b := by decide +kernel
  obtain ⟨bound, exp⟩ := entry a ha
  exact ⟨_, bound, logOf_of_ne_zero ha, exp⟩

/-- Products of powers of α through the tables (40_gf_arith.md R104). -/
theorem gfMul_expOf {i j : Nat} (hi : i < 256) (hj : j < 256) :
    gfMul (expOf i) (expOf j) = expOf ((i + j) % 255) := by
  rw [gfMul_of_logs (logOf_expOf hi) (logOf_expOf hj), ← Nat.add_mod]

/-! ### The two forms of the product -/

/-- The powers of α repeat with period 255. -/
theorem expOf_mod_succ (n : Nat) : expOf ((n + 1) % 255) = gfMulPoly (expOf (n % 255)) Config.alpha := by
  rw [← expOf_succ (n.mod_lt (by decide))]
  by_cases wrap : n % 255 = 254
  · rw [wrap, show (n + 1) % 255 = 0 by omega]; rfl
  · rw [show (n + 1) % 255 = n % 255 + 1 by omega]

/-- The product of powers of α as polynomials, one factor α at a time. -/
theorem gfMulPoly_expOf {i j : Nat} (hi : i < 255) (hj : j < 255) :
    gfMulPoly (expOf i) (expOf j) = expOf ((i + j) % 255) := by
  induction j with
  | zero => rw [Nat.add_zero, Nat.mod_eq_of_lt hi]; exact gfMulPoly_one _
  | succ j ih =>
    rw [expOf_succ (by omega), ← gfMulPoly_assoc, ih (by omega), ← expOf_mod_succ, Nat.add_assoc]

/-- The two forms of R104 agree: on powers of α both add the exponents. -/
theorem gfMul_eq_gfMulPoly (a b : Byte) : gfMul a b = gfMulPoly a b := by
  by_cases ha : a = 0
  · rw [ha, gfMul_zero_left, gfMulPoly_zero_left]
  by_cases hb : b = 0
  · rw [hb, gfMul_zero_right, gfMulPoly_zero_right]
  obtain ⟨i, hi, -, rfl⟩ := exists_log a ha
  obtain ⟨j, hj, -, rfl⟩ := exists_log b hb
  rw [gfMul_expOf (by omega) (by omega), gfMulPoly_expOf (by omega) (by omega)]

/-- The inverse of R105, and that its product with the operand is 1. -/
theorem exists_gfInv (a : Byte) (ha : a ≠ 0) : ∃ r, gfInv a = some r ∧ gfMul a r = 1 := by
  obtain ⟨i, hi, hlog, rfl⟩ := exists_log a ha
  refine ⟨expOf (255 - i), gfInv_of_log hlog, ?_⟩
  rw [gfMul_expOf (by omega) (by omega), show (i + (255 - i)) % 255 = 0 by omega]
  rfl

/-- Settles O8: the tables satisfy the recurrence step by step, and LOG and EXP undo each other. -/
theorem logAndExpTables : Obligations.LogAndExpTables := by
  unfold Obligations.LogAndExpTables
  exact ⟨fun _ => expOf_toNat, rfl, rfl, fun _ => logOf_expOf_of_lt, exists_log, rfl, logOf_zero⟩

/-- Settles O9: the zero rule and the tables are the laws of `gfMul`, the reduced product is `gfMul_eq_gfMulPoly`. -/
theorem gfMulIsReducedProduct : Obligations.GfMulIsReducedProduct := by
  unfold Obligations.GfMulIsReducedProduct
  refine fun a b => ⟨?_, fun _ _ => gfMul_of_logs, gfMul_eq_gfMulPoly a b⟩
  rintro (rfl | rfl)
  · exact gfMul_zero_left b
  · exact gfMul_zero_right a

end Sys2Proof.Machine
end

section
/-! PROOFS. The words of the scalar commands decode, and no word with a must-be-zero bit set does (30_encoding.md R81
to R88); the completion of each scalar command, and the obligations of 40_gf_arith.md section 2. -/

namespace Sys2Proof

/-! ### Decoding by format -/

section

variable {w : Word}

theorem decodeG1_of_mbz (f : Byte → Instr) (hz : w.extractLsb' 16 16 = 0) :
    decodeG1 w f = .command (f (operandA w)) :=
  if_pos hz

theorem decodeG2_of_mbz (f : Byte → Byte → Instr) (hz : w.extractLsb' 24 8 = 0) :
    decodeG2 w f = .command (f (operandA w) (operandBv w)) :=
  if_pos hz

theorem decode_gfAdd (hop : opField w = 0x01) : decode w = decodeG2 w .gfAdd := by simp [decode, hop]
theorem decode_gfMul (hop : opField w = 0x02) : decode w = decodeG2 w .gfMul := by simp [decode, hop]
theorem decode_gfInv (hop : opField w = 0x03) : decode w = decodeG1 w .gfInv := by simp [decode, hop]
theorem decode_gfExp (hop : opField w = 0x04) : decode w = decodeG1 w .gfExp := by simp [decode, hop]
theorem decode_gfLog (hop : opField w = 0x05) : decode w = decodeG1 w .gfLog := by simp [decode, hop]

end

/-- The lowest must-be-zero bit of the words with opcode `op` (30_encoding.md R81 to R84, R86): format G2 has two
operands in the word, format G1 one, and formats Z and R none. -/
def mbzFrom (op : Byte) : Nat :=
  if op ∈ [0x01, 0x02] then 24 else if op ∈ [0x03, 0x04, 0x05, 0x10, 0x11] then 16 else 8

theorem encodeBare_lt (op : Byte) : (encodeBare op).toNat < 2 ^ 8 := by
  rw [encodeBare_toNat]; omega

theorem encodeG1_lt (op a : Byte) : (encodeG1 op a).toNat < 2 ^ 16 := by
  rw [encodeG1_toNat]; omega

theorem encodeG2_lt (op a bv : Byte) : (encodeG2 op a bv).toNat < 2 ^ 24 := by
  rw [encodeG2_toNat]; omega

/-- The word of a command is 0 from its lowest must-be-zero bit on. -/
theorem encode_lt (i : Instr) : (encode i).toNat < 2 ^ mbzFrom (opcode i) := by
  cases i with
  | nop | rsEncode | rsBlockinfo | rsInterleave => exact encodeBare_lt _
  | gfInv | gfExp | gfLog | genPoly | polyEval => exact encodeG1_lt _ _
  | gfAdd | gfMul => exact encodeG2_lt _ _ _

end Sys2Proof

namespace Sys2Proof.Machine

/-- A word that decodes is its command's word, and that one has no must-be-zero bit set (30_encoding.md R88). -/
theorem illegalFrom_mbz (op : Byte) : IllegalFrom op (mbzFrom op) := by
  unfold IllegalFrom
  intro s hop hmbz
  refine complete_of_not_wellFormedWord (Bool.eq_false_iff.mpr fun hwf => hmbz ?_)
  obtain ⟨i, hi⟩ := (wellFormedWord_iff_decode s.cmd).mp hwf
  have opcode_eq : opcode i = op := by
    rw [← opField_encode, encode_of_decode hi, ← BitVec.toNat_inj, opField_toNat, hop]
  rw [← encode_of_decode hi, ← opcode_eq]
  exact Nat.div_eq_of_lt (encode_lt i)

/-! ### Completion -/

theorem complete_of_decode {s : State} {i : Instr} (h : decode s.cmd = .command i) : complete s = exec i s := by
  simp [complete, h]

theorem exec_nop (s : State) : exec .nop s = .next s.succeed := rfl

theorem exec_gfAdd (a b : Byte) (s : State) :
    exec (.gfAdd a b) s = .next (s.setResult (zext32 (a ^^^ b))).succeed := rfl

theorem exec_gfMul (a b : Byte) (s : State) :
    exec (.gfMul a b) s = .next (s.setResult (zext32 (gfMulPoly a b))).succeed := by
  rw [← gfMul_eq_gfMulPoly]; rfl

theorem exec_gfInv_zero (s : State) : exec (.gfInv 0) s = .next (s.abort .gfDomain) := rfl

theorem exec_gfInv_of_some {a r : Byte} (s : State) (h : gfInv a = some r) :
    exec (.gfInv a) s = .next (s.setResult (zext32 r)).succeed := by
  simp [exec, execGfInv, h]

theorem exec_gfExp (k : Byte) (s : State) :
    exec (.gfExp k) s = .next (s.setResult (natWord (expRec k.toNat))).succeed := by
  rw [← expOf_toNat k.isLt, natWord, BitVec.ofNat_toNat]; rfl

theorem exec_gfLog_zero (s : State) : exec (.gfLog 0) s = .next (s.abort .gfDomain) := rfl

theorem exec_gfLog_of_some {a : Byte} {i : Nat} (s : State) (h : logOf a = some i) :
    exec (.gfLog a) s = .next (s.setResult (natWord i)).succeed := by
  simp [exec, execGfLog, h]

/-- The powers of α are not 0 (40_gf_arith.md R114). -/
theorem expRec_ne_zero {i : Nat} (hi : i < 256) : expRec i ≠ 0 := by
  rw [← expOf_toNat hi]
  exact fun h => expOf_ne_zero hi (BitVec.eq_of_toNat_eq h)

/-! ### The obligations -/

/-- Settles O12: the acceptance clears DONE, ERR and ERRCODE and keeps ACCESS_ERR, and so does the success. -/
theorem nopSetsDoneOnly : Obligations.NopSetsDoneOnly := by
  unfold Obligations.NopSetsDoneOnly
  have word_zero : decode 0 = .command .nop := by decide
  refine ⟨word_zero, illegalFrom_mbz 0x00, exec_nop,
    fun s => ⟨(s.accept 0).succeed, complete_of_decode (s := s.accept 0) word_zero, rfl, rfl, fun h => ?_⟩⟩
  simp [Status.word, ErrCode.code, h]

/-- Settles O13: the completion is `exec_gfAdd`, the corner cases are the laws of `gfAdd`. -/
theorem gfAddWritesXor : Obligations.GfAddWritesXor := by
  unfold Obligations.GfAddWritesXor
  exact ⟨fun w hop hz => (decode_gfAdd hop).trans (decodeG2_of_mbz _ hz), illegalFrom_mbz 0x01, exec_gfAdd,
    fun a => ⟨gfAdd_self a, gfAdd_zero a, zero_gfAdd a⟩, by decide, by decide⟩

/-- Settles O14: the completion is `exec_gfMul`, which rests on the equality of the two forms of R104. -/
theorem gfMulWritesReducedProduct : Obligations.GfMulWritesReducedProduct := by
  unfold Obligations.GfMulWritesReducedProduct
  exact ⟨fun w hop hz => (decode_gfMul hop).trans (decodeG2_of_mbz _ hz), illegalFrom_mbz 0x02, exec_gfMul,
    fun a => ⟨gfMulPoly_zero_right a, gfMulPoly_zero_left a⟩, by decide, by decide, by decide, by decide⟩

/-- Settles O15: the inverse of a nonzero byte is `exists_gfInv`, and 0 has none. -/
theorem gfInvWritesInverse : Obligations.GfInvWritesInverse := by
  unfold Obligations.GfInvWritesInverse
  refine ⟨fun w hop hz => (decode_gfInv hop).trans (decodeG1_of_mbz _ hz), illegalFrom_mbz 0x03,
    exec_gfInv_zero, fun a s ha => ?_, by decide, by decide, by decide, by decide, by decide⟩
  obtain ⟨r, hinv, hone⟩ := exists_gfInv a ha
  exact ⟨r, hinv, hone, exec_gfInv_of_some s hinv⟩

/-- Settles O16: the printed table is the recurrence; its values are read back from the table. -/
theorem gfExpWritesPower : Obligations.GfExpWritesPower := by
  unfold Obligations.GfExpWritesPower
  refine ⟨fun w hop hz => (decode_gfExp hop).trans (decodeG1_of_mbz _ hz), illegalFrom_mbz 0x04,
    fun k s => ⟨expRec_ne_zero k.isLt, exec_gfExp k s⟩, rfl, ?_, by decide, by decide, by decide⟩
  exact (expOf_toNat (i := 255) (by decide)).symm

/-- Settles O17: the logarithm of a nonzero byte is `exists_log`, and 0 has none. -/
theorem gfLogWritesExponent : Obligations.GfLogWritesExponent := by
  unfold Obligations.GfLogWritesExponent
  refine ⟨fun w hop hz => (decode_gfLog hop).trans (decodeG1_of_mbz _ hz), illegalFrom_mbz 0x05,
    exec_gfLog_zero, fun a s ha => ?_, by decide, by decide, by decide, by decide⟩
  obtain ⟨i, hi, hlog, hexp⟩ := exists_log a ha
  exact ⟨i, hi, hlog, hexp, exec_gfLog_of_some s hlog⟩

end Sys2Proof.Machine
end

section
/-! PROOFS. The laws of the field that polynomials need (40_gf_arith.md R107). They are read off the product of R104,
which is additive and associative (`gfMul_eq_gfMulPoly`). -/

namespace Sys2Proof.Machine

theorem gfAdd_comm (a b : Byte) : gfAdd a b = gfAdd b a := BitVec.xor_comm a b

theorem gfAdd_assoc (a b c : Byte) : gfAdd (gfAdd a b) c = gfAdd a (gfAdd b c) := BitVec.xor_assoc a b c

theorem gfAdd_left_comm (a b c : Byte) : gfAdd a (gfAdd b c) = gfAdd b (gfAdd a c) := by
  rw [← gfAdd_assoc, gfAdd_comm a, gfAdd_assoc]

theorem gfAdd_eq_zero {a b : Byte} : gfAdd a b = 0 ↔ a = b := BitVec.xor_eq_zero_iff

theorem gfMul_comm (a b : Byte) : gfMul a b = gfMul b a := by
  unfold gfMul
  cases logOf a <;> cases logOf b <;> simp [Nat.add_comm]

theorem gfMul_assoc (a b c : Byte) : gfMul (gfMul a b) c = gfMul a (gfMul b c) := by
  simp only [gfMul_eq_gfMulPoly, gfMulPoly_assoc]

@[simp] theorem gfMul_one (a : Byte) : gfMul a 1 = a := by rw [gfMul_eq_gfMulPoly, gfMulPoly_one]

@[simp] theorem one_gfMul (a : Byte) : gfMul 1 a = a := by rw [gfMul_comm, gfMul_one]

theorem gfAdd_gfMul (a b c : Byte) : gfMul (gfAdd a b) c = gfAdd (gfMul a c) (gfMul b c) := by
  simp only [gfMul_eq_gfMulPoly]
  exact gfMulPoly_xor_left a b c

theorem gfMul_gfAdd (a b c : Byte) : gfMul a (gfAdd b c) = gfAdd (gfMul a b) (gfMul a c) := by
  rw [gfMul_comm, gfAdd_gfMul, gfMul_comm b, gfMul_comm c]

/-- There are no zero divisors: the product of powers of α is a power of α. -/
theorem gfMul_eq_zero {a b : Byte} : gfMul a b = 0 ↔ a = 0 ∨ b = 0 := by
  constructor
  · intro h
    by_contra! nonzero
    obtain ⟨ha, hb⟩ := nonzero
    rw [gfMul_of_logs (logOf_of_ne_zero ha) (logOf_of_ne_zero hb)] at h
    exact expOf_ne_zero ((Nat.mod_lt _ (by decide)).trans (by decide)) h
  · rintro (rfl | rfl)
    · exact gfMul_zero_left b
    · exact gfMul_zero_right a

end Sys2Proof.Machine
end

section
/-! PROOFS. The coefficients of a polynomial (41_poly_rs.md R131) through each operation on lists, and that the product
is the convolution of the coefficients (R133). -/

namespace Sys2Proof.Machine

/-! ### Coefficients -/

@[simp] theorem coef_nil (k : Nat) : coef [] k = 0 := rfl

/-- The first coefficient of a list is the one of its highest degree. -/
theorem coef_cons (c : Byte) (p : List Byte) (k : Nat) :
    coef (c :: p) k = if k = p.length then c else coef p k := by
  unfold coef
  split
  next h => simp [h]
  next h => grind

theorem coef_of_length_le {p : List Byte} {k : Nat} (h : p.length ≤ k) : coef p k = 0 := by
  simp [coef, h]

theorem coef_cons_length (c : Byte) (p : List Byte) : coef (c :: p) p.length = c := by
  rw [coef_cons, if_pos rfl]

/-- Leading zeros do not change the polynomial. -/
@[simp] theorem coef_zero_cons (p : List Byte) (k : Nat) : coef (0 :: p) k = coef p k := by
  rw [coef_cons]
  split
  next h => rw [coef_of_length_le h.ge]
  next => rfl

@[simp] theorem coef_replicate_append (n : Nat) (p : List Byte) (k : Nat) :
    coef (List.replicate n 0 ++ p) k = coef p k := by
  induction n with
  | zero => rfl
  | succ n ih => rw [List.replicate_succ, List.cons_append, coef_zero_cons, ih]

@[simp] theorem coef_replicate (n k : Nat) : coef (List.replicate n 0) k = 0 := by
  rw [← List.append_nil (List.replicate n 0), coef_replicate_append, coef_nil]

@[simp] theorem coef_norm (p : List Byte) (k : Nat) : coef (norm p) k = coef p k := by
  induction p with
  | nil => exact coef_zero_cons [] k
  | cons c p ih =>
    by_cases h : c = 0
    · rw [h, norm_zero_cons, coef_zero_cons, ih]
    · rw [norm_cons_of_ne_zero p h]

/-- A list is read off its coefficients from the highest degree down. -/
theorem getElem?_eq_coef {p : List Byte} {i : Nat} (h : i < p.length) :
    p[i]? = some (coef p (p.length - 1 - i)) := by
  have mirrored : p.length - 1 - (p.length - 1 - i) = i := by omega
  simp [coef, List.getElem?_reverse (show p.length - 1 - i < p.length by omega), mirrored, h]

theorem norm_eq_zero {p : List Byte} (h : ∀ k, coef p k = 0) : norm p = [0] := by
  induction p with
  | nil => rfl
  | cons c p ih =>
    obtain rfl : c = 0 := by rw [← coef_cons_length c p, h]
    simp only [coef_zero_cons] at h
    rw [norm_zero_cons, ih h]

/-! ### Coefficients of a sum and of a row of a product -/

theorem coef_zipWith {p q : List Byte} (h : p.length = q.length) (k : Nat) :
    coef (List.zipWith gfAdd p q) k = gfAdd (coef p k) (coef q k) := by
  induction p generalizing q with
  | nil => rw [List.length_eq_zero_iff.mp h.symm]; exact (gfAdd_self 0).symm
  | cons a p ih =>
    obtain ⟨b, q, rfl⟩ := List.exists_cons_of_length_eq_add_one h.symm
    have same : p.length = q.length := Nat.succ.inj h
    rw [List.zipWith_cons_cons, coef_cons, coef_cons, coef_cons, ih same, List.length_zipWith, ← same, Nat.min_self]
    split <;> rfl

@[simp] theorem coef_addRaw (p q : List Byte) (k : Nat) : coef (addRaw p q) k = gfAdd (coef p k) (coef q k) := by
  rw [addRaw, coef_zipWith (by simp only [padTo_length]; omega)]
  simp only [padTo, coef_replicate_append]

@[simp] theorem coef_scale (c : Byte) (p : List Byte) (k : Nat) : coef (scale c p) k = gfMul (coef p k) c := by
  induction p with
  | nil => rfl
  | cons a p ih =>
    rw [scale, List.map_cons, ← scale, coef_cons, coef_cons, scale_length, ih]
    split <;> rfl

/-- Zeros at the end multiply by a power of x. -/
theorem coef_append_replicate (p : List Byte) (n k : Nat) :
    coef (p ++ List.replicate n 0) k = if k < n then 0 else coef p (k - n) := by
  induction p with
  | nil => rw [List.nil_append, coef_replicate, coef_nil, ite_self]
  | cons c p ih =>
    rw [List.cons_append, coef_cons, coef_cons, ih, List.length_append, List.length_replicate]
    grind

/-! ### Sums -/

/-- The sum of `f 0`, ..., `f (n - 1)`. -/
def gfSum (n : Nat) (f : Nat → Byte) : Byte := ((List.range n).map f).foldr gfAdd 0

theorem gfSum_succ (n : Nat) (f : Nat → Byte) : gfSum (n + 1) f = gfAdd (gfSum n f) (f n) := by
  have start : ∀ l : List Byte, l.foldr gfAdd (f n) = gfAdd (l.foldr gfAdd 0) (f n) := by
    intro l
    induction l with
    | nil => exact (zero_gfAdd _).symm
    | cons a l ih => rw [List.foldr_cons, List.foldr_cons, ih, gfAdd_assoc]
  simp only [gfSum, List.range_succ, List.map_append, List.map_cons, List.map_nil, List.foldr_append,
    List.foldr_cons, List.foldr_nil, gfAdd_zero, start]

theorem gfSum_congr {n : Nat} {f g : Nat → Byte} (h : ∀ i, i < n → f i = g i) : gfSum n f = gfSum n g := by
  rw [gfSum, List.map_congr_left fun i hi => h i (List.mem_range.mp hi), ← gfSum]

theorem gfSum_add (n : Nat) (f g : Nat → Byte) :
    gfSum n (fun i => gfAdd (f i) (g i)) = gfAdd (gfSum n f) (gfSum n g) := by
  induction n with
  | zero => exact (gfAdd_self 0).symm
  | succ n ih => simp only [gfSum_succ, ih, gfAdd_assoc, gfAdd_left_comm]

/-- A sum with one term that may differ from zero. -/
theorem gfSum_single (n j : Nat) (a : Byte) :
    gfSum n (fun i => if i = j then a else 0) = if j < n then a else 0 := by
  induction n with
  | zero => rfl
  | succ n ih =>
    rw [gfSum_succ, ih]
    rcases lt_trichotomy j n with h | rfl | h
    · rw [if_pos h, if_neg h.ne', if_pos (by omega), gfAdd_zero]
    · rw [if_neg (by omega), if_pos rfl, if_pos (by omega), zero_gfAdd]
    · rw [if_neg (by omega), if_neg (by omega), if_neg (by omega), gfAdd_zero]

theorem gfSum_zero (n : Nat) : gfSum n (fun _ => 0) = 0 := by
  simpa only [ite_self] using gfSum_single n 0 0

/-! ### The product -/

/-- One row of the product is the convolution with a single coefficient. -/
theorem coef_row (p : List Byte) (c : Byte) (n k : Nat) :
    coef (scale c p ++ List.replicate n 0) k =
      gfSum (k + 1) (fun i => gfMul (coef p i) (if k - i = n then c else 0)) := by
  rw [coef_append_replicate, coef_scale]
  by_cases h : k < n
  · rw [if_pos h, gfSum_congr (g := fun _ => 0), gfSum_zero]
    intro i _
    rw [if_neg (by omega), gfMul_zero_right]
  · rw [if_neg h, gfSum_congr (g := fun i => if i = k - n then gfMul (coef p (k - n)) c else 0), gfSum_single,
      if_pos (by omega)]
    intro i hi
    by_cases place : i = k - n
    · rw [if_pos place, if_pos (by omega), place]
    · rw [if_neg place, if_neg (by omega), gfMul_zero_right]

/-- The product of 41_poly_rs.md R133, before the normal form, row by row. -/
theorem coef_mulRaw (p q : List Byte) (k : Nat) :
    coef (mulRaw p q) k = gfSum (k + 1) (fun i => gfMul (coef p i) (coef q (k - i))) := by
  induction q with
  | nil => simp only [mulRaw, coef_replicate, coef_nil, gfMul_zero_right, gfSum_zero]
  | cons c q ih =>
    rw [mulRaw, coef_addRaw, ih, coef_row, ← gfSum_add]
    refine gfSum_congr fun i _ => ?_
    rw [← gfMul_gfAdd, coef_cons]
    split
    next h => rw [coef_of_length_le h.ge, gfAdd_zero]
    next => rw [zero_gfAdd]

theorem coef_polyMul (p q : List Byte) (k : Nat) :
    coef (polyMul p q) k = gfSum (k + 1) (fun i => gfMul (coef p i) (coef q (k - i))) := by
  rw [polyMul, coef_norm, coef_mulRaw]

theorem polyMul_zero (p : List Byte) : polyMul p [0] = [0] := by
  refine norm_eq_zero fun k => ?_
  simp only [coef_mulRaw, coef_zero_cons, coef_nil, gfMul_zero_right, gfSum_zero]

theorem zero_polyMul (p : List Byte) : polyMul [0] p = [0] := by
  refine norm_eq_zero fun k => ?_
  simp only [coef_mulRaw, coef_zero_cons, coef_nil, gfMul_zero_left, gfSum_zero]

/-- Settles O20: each row of the product is the convolution with one coefficient (`coef_row`), and the rows add up. -/
theorem polyMulConvolves : Obligations.PolyMulConvolves := by
  unfold Obligations.PolyMulConvolves
  exact ⟨fun p q _ _ => ⟨coef_polyMul p q, norm_norm (mulRaw p q)⟩, fun p _ => ⟨polyMul_zero p, zero_polyMul p⟩⟩

end Sys2Proof.Machine
end

section
/-! PROOFS. Evaluation by Horner's rule (41_poly_rs.md R136) turns the product of polynomials into the product of
values; the generator is monic of its degree and its roots are the powers of α it is built from (R130). -/

namespace Sys2Proof.Machine

/-! ### Horner's rule from any value on -/

/-- Horner's rule with `a` as the value of the coefficients already read. -/
def horner (x a : Byte) (p : List Byte) : Byte := p.foldl (fun acc c => gfAdd (gfMul acc x) c) a

theorem polyEval_append (p q : List Byte) (x : Byte) : polyEval (p ++ q) x = horner x (polyEval p x) q :=
  List.foldl_append

theorem polyEval_cons_eq_horner (c : Byte) (p : List Byte) (x : Byte) : polyEval (c :: p) x = horner x c p := by
  rw [polyEval, List.foldl_cons, gfMul_zero_left, zero_gfAdd, horner]

theorem horner_cons (x a c : Byte) (p : List Byte) :
    horner x a (c :: p) = horner x (gfAdd (gfMul a x) c) p := rfl

theorem horner_zipWith (x a b : Byte) {p q : List Byte} (h : p.length = q.length) :
    horner x (gfAdd a b) (List.zipWith gfAdd p q) = gfAdd (horner x a p) (horner x b q) := by
  induction p generalizing a b q with
  | nil => rw [List.length_eq_zero_iff.mp h.symm]; rfl
  | cons c p ih =>
    obtain ⟨d, q, rfl⟩ := List.exists_cons_of_length_eq_add_one h.symm
    rw [List.zipWith_cons_cons, horner_cons, horner_cons, horner_cons, ← ih _ _ (Nat.succ.inj h)]
    congr 1
    simp only [gfAdd_gfMul, gfAdd_assoc, gfAdd_left_comm]

theorem horner_scale (x a c : Byte) (p : List Byte) :
    horner x (gfMul a c) (scale c p) = gfMul (horner x a p) c := by
  induction p generalizing a with
  | nil => rfl
  | cons d p ih =>
    rw [scale, List.map_cons, ← scale, horner_cons, horner_cons, ← ih, gfAdd_gfMul, gfMul_assoc, gfMul_comm c,
      ← gfMul_assoc]

/-! ### Evaluation through the operations -/

theorem polyEval_zero_cons (p : List Byte) (x : Byte) : polyEval (0 :: p) x = polyEval p x :=
  polyEval_cons_eq_horner 0 p x

theorem polyEval_replicate_append (n : Nat) (p : List Byte) (x : Byte) :
    polyEval (List.replicate n 0 ++ p) x = polyEval p x := by
  induction n with
  | zero => rfl
  | succ n ih => rw [List.replicate_succ, List.cons_append, polyEval_zero_cons, ih]

theorem polyEval_replicate (n : Nat) (x : Byte) : polyEval (List.replicate n 0) x = 0 := by
  rw [← List.append_nil (List.replicate n 0), polyEval_replicate_append, polyEval_nil]

theorem polyEval_norm (p : List Byte) (x : Byte) : polyEval (norm p) x = polyEval p x := by
  induction p with
  | nil => exact polyEval_zero_cons [] x
  | cons c p ih =>
    by_cases h : c = 0
    · rw [h, norm_zero_cons, ih, polyEval_zero_cons]
    · rw [norm_cons_of_ne_zero p h]

theorem polyEval_addRaw (p q : List Byte) (x : Byte) :
    polyEval (addRaw p q) x = gfAdd (polyEval p x) (polyEval q x) := by
  have same : (padTo q.length p).length = (padTo p.length q).length := by
    simp only [padTo_length]; omega
  calc polyEval (addRaw p q) x
      = gfAdd (polyEval (padTo q.length p) x) (polyEval (padTo p.length q) x) := horner_zipWith x 0 0 same
    _ = gfAdd (polyEval p x) (polyEval q x) := by simp only [padTo, polyEval_replicate_append]

theorem polyEval_scale (c : Byte) (p : List Byte) (x : Byte) :
    polyEval (scale c p) x = gfMul (polyEval p x) c :=
  horner_scale x 0 c p

theorem scale_replicate (c : Byte) (n : Nat) : scale c (List.replicate n 0) = List.replicate n 0 := by
  rw [scale, List.map_replicate, gfMul_zero_left]

/-- Zeros at the end multiply the value by a power of x. -/
theorem polyEval_append_replicate (p : List Byte) (c x : Byte) (n : Nat) :
    polyEval (scale c p ++ List.replicate n 0) x = gfMul (polyEval p x) (horner x c (List.replicate n 0)) := by
  rw [polyEval_append, polyEval_scale, gfMul_comm _ c, ← scale_replicate (polyEval p x), horner_scale,
    scale_replicate, gfMul_comm]

theorem zipWith_replicate_zero (p : List Byte) : List.zipWith gfAdd (List.replicate p.length 0) p = p := by
  induction p with
  | nil => rfl
  | cons c p ih => rw [List.length_cons, List.replicate_succ, List.zipWith_cons_cons, zero_gfAdd, ih]

/-- The first coefficient counts with the power of x of its place. -/
theorem polyEval_cons (c : Byte) (p : List Byte) (x : Byte) :
    polyEval (c :: p) x = gfAdd (horner x c (List.replicate p.length 0)) (polyEval p x) := by
  calc polyEval (c :: p) x
      = horner x (gfAdd c 0) (List.zipWith gfAdd (List.replicate p.length 0) p) := by
        rw [polyEval_cons_eq_horner, gfAdd_zero, zipWith_replicate_zero]
    _ = gfAdd (horner x c (List.replicate p.length 0)) (polyEval p x) :=
        horner_zipWith x c 0 List.length_replicate

theorem polyEval_mulRaw (p q : List Byte) (x : Byte) :
    polyEval (mulRaw p q) x = gfMul (polyEval p x) (polyEval q x) := by
  induction q with
  | nil => rw [mulRaw, polyEval_replicate, polyEval_nil, gfMul_zero_right]
  | cons c q ih =>
    rw [mulRaw, polyEval_addRaw, polyEval_append_replicate, ih, ← gfMul_gfAdd, ← polyEval_cons]

theorem polyEval_polyMul (p q : List Byte) (x : Byte) :
    polyEval (polyMul p q) x = gfMul (polyEval p x) (polyEval q x) := by
  rw [polyMul, polyEval_norm, polyEval_mulRaw]

/-! ### The generator -/

theorem genPoly_succ {n : Nat} (h : n < 255) : genPoly (n + 1) = polyMul (genPoly n) [1, expOf n] := by
  rw [genPoly, show (n + Config.genBase) % 255 = n from Nat.mod_eq_of_lt h]

theorem polyEval_genPoly_succ {n : Nat} (h : n < 255) (x : Byte) :
    polyEval (genPoly (n + 1)) x = gfMul (polyEval (genPoly n) x) (x ^^^ expOf n) := by
  have factor : polyEval [1, expOf n] x = x ^^^ expOf n := by
    rw [polyEval_cons_eq_horner, horner_cons, one_gfMul]; rfl
  rw [genPoly_succ h, polyEval_polyMul, factor]

theorem polyEval_genPoly {n : Nat} (h : n ≤ 255) (x : Byte) :
    polyEval (genPoly n) x = ((List.range n).map (fun i => x ^^^ expOf i)).foldl gfMul 1 := by
  induction n with
  | zero => rw [genPoly, polyEval_cons_eq_horner]; rfl
  | succ n ih =>
    rw [polyEval_genPoly_succ h, ih (by omega), List.range_succ, List.map_append, List.foldl_append]
    rfl

/-- The field has no zero divisors, so a root is a root of one of the factors. -/
theorem polyEval_genPoly_eq_zero {n : Nat} (h : n ≤ 255) (x : Byte) :
    polyEval (genPoly n) x = 0 ↔ ∃ i, i < n ∧ expOf i = x := by
  induction n with
  | zero => rw [genPoly, polyEval_cons_eq_horner]; simp [horner]
  | succ n ih =>
    rw [polyEval_genPoly_succ h, gfMul_eq_zero, ih (by omega), ← gfAdd_eq_xor, gfAdd_eq_zero,
      Nat.exists_lt_succ_right, @eq_comm _ x]

/-- A sum begins with the first coefficient of the longer list. -/
theorem addRaw_cons {p q : List Byte} (c : Byte) (h : q.length ≤ p.length) :
    addRaw (c :: p) q = c :: addRaw p q := by
  have longer : q.length - (p.length + 1) = 0 := by omega
  have padded : p.length + 1 - q.length = p.length - q.length + 1 := by omega
  simp only [addRaw, padTo, List.length_cons, longer, padded, List.replicate_zero, List.nil_append,
    List.replicate_succ, List.cons_append, List.zipWith_cons_cons, gfAdd_zero, Nat.sub_eq_zero_of_le h]

theorem exists_mulRaw_monic (p q : List Byte) : ∃ r, mulRaw (1 :: p) (1 :: q) = 1 :: r := by
  rw [mulRaw, scale, List.map_cons, ← scale, gfMul_one, List.cons_append, addRaw_cons]
  · exact ⟨_, rfl⟩
  · rw [mulRaw_length _ _ (List.cons_ne_nil 1 p), List.length_append, scale_length, List.length_replicate,
      List.length_cons]
    omega

/-- The generator of degree n is monic with n coefficients after the first (41_poly_rs.md R130). -/
theorem exists_genPoly_eq (n : Nat) : ∃ low, low.length = n ∧ genPoly n = 1 :: low := by
  induction n with
  | zero => exact ⟨[], rfl, rfl⟩
  | succ n ih =>
    obtain ⟨low, hlen, hgen⟩ := ih
    obtain ⟨r, hr⟩ := exists_mulRaw_monic low [expOf ((n + Config.genBase) % 255)]
    refine ⟨r, ?_, by rw [genPoly, hgen, polyMul, hr, norm_cons_of_ne_zero r (by decide)]⟩
    have len := mulRaw_length (1 :: low) [1, expOf ((n + Config.genBase) % 255)] (List.cons_ne_nil _ _)
    rw [hr] at len
    simp only [List.length_cons, List.length_nil, hlen] at len
    omega

/-- Settles O23: the values of a product are the products of the values (`polyEval_polyMul`), and there are no zero
divisors. -/
theorem generatorIsProductOfRoots : Obligations.GeneratorIsProductOfRoots := by
  unfold Obligations.GeneratorIsProductOfRoots
  intro n hn
  obtain ⟨low, hlen, hgen⟩ := exists_genPoly_eq n
  refine ⟨by rw [hgen, List.length_cons, hlen], by rw [hgen, List.head?_cons], polyEval_genPoly hn,
    polyEval_genPoly_eq_zero hn⟩

end Sys2Proof.Machine
end

section
/-! PROOFS. The shift register of 41_poly_rs.md R142 and the long division of R135 eliminate the same leading
coefficients: the register holds the multiples of the generator that are still to be added to the coefficients to come.
One induction on the data gives both R142 and the e bytes of R141. -/

namespace Sys2Proof.Machine

/-! ### Degree, leading coefficient and normal form -/

theorem deg_cons {c : Byte} (p : List Byte) (h : c ≠ 0) : deg (c :: p) = p.length := by
  rw [deg, norm_cons_of_ne_zero p h, List.length_cons, Nat.add_sub_cancel]

theorem lead_cons {c : Byte} (p : List Byte) (h : c ≠ 0) : lead (c :: p) = c := by
  rw [lead, deg_cons p h, coef_cons_length]

theorem norm_norm_append (p q : List Byte) : norm (norm p ++ q) = norm (p ++ q) := by
  induction p with
  | nil => exact norm_zero_cons q
  | cons c p ih =>
    by_cases h : c = 0
    · rw [h, norm_zero_cons, ih, List.cons_append, norm_zero_cons]
    · rw [norm_cons_of_ne_zero p h]

/-- The remainder does not depend on leading zeros of the dividend. -/
theorem polyMod_norm (p g : List Byte) : polyMod (norm p) g = polyMod p g := by
  simp only [polyMod, deg, norm_norm]

/-- Aligning to the length of a list puts its leading zeros back. -/
theorem rightAlign_norm {p : List Byte} (h : p ≠ []) : rightAlign p.length (norm p) = p := by
  rw [rightAlign, norm_norm]
  induction p with
  | nil => exact absurd rfl h
  | cons c p ih =>
    by_cases hc : c = 0
    · subst c
      rcases eq_or_ne p [] with rfl | hp
      · rfl
      · have pos := List.length_pos_iff.mpr hp
        have le := norm_length_le p
        have zeros : p.length + 1 - (norm p).length = p.length - (norm p).length + 1 := by omega
        rw [norm_zero_cons, List.length_cons, zeros, List.replicate_succ, List.cons_append, ih hp]
    · rw [norm_cons_of_ne_zero p hc, Nat.sub_self, List.replicate_zero, List.nil_append]

/-! ### Adding to the highest coefficients -/

/-- Add the coefficients of `r` to the first ones of `v`. -/
def addFront : List Byte → List Byte → List Byte
  | a :: r, c :: v => gfAdd a c :: addFront r v
  | _, v => v

@[simp] theorem nil_addFront (v : List Byte) : addFront [] v = v := rfl

@[simp] theorem addFront_nil (r : List Byte) : addFront r [] = [] := by cases r <;> rfl

@[simp] theorem cons_addFront_cons (a c : Byte) (r v : List Byte) :
    addFront (a :: r) (c :: v) = gfAdd a c :: addFront r v := rfl

@[simp] theorem addFront_length (r v : List Byte) : (addFront r v).length = v.length := by
  induction r, v using addFront.induct with
  | case1 a r c v ih => rw [cons_addFront_cons, List.length_cons, ih, List.length_cons]
  | case2 r v h => rw [addFront]; exact h

theorem addFront_replicate (n : Nat) (v : List Byte) : addFront (List.replicate n 0) v = v := by
  induction n generalizing v with
  | zero => rfl
  | succ n ih =>
    cases v with
    | nil => rfl
    | cons c v => rw [List.replicate_succ, cons_addFront_cons, zero_gfAdd, ih]

theorem addFront_zeros (r : List Byte) : addFront r (List.replicate r.length 0) = r := by
  induction r with
  | nil => rfl
  | cons a r ih => rw [List.length_cons, List.replicate_succ, cons_addFront_cons, gfAdd_zero, ih]

theorem addFront_concat_zero (r v : List Byte) : addFront (r ++ [0]) v = addFront r v := by
  induction r, v using addFront.induct with
  | case1 a r c v ih => rw [List.cons_append, cons_addFront_cons, ih, cons_addFront_cons]
  | case2 r v h =>
    cases v with
    | nil => simp only [addFront_nil]
    | cons c v =>
      cases r with
      | nil => exact addFront_replicate 1 (c :: v)
      | cons a r => exact (h a r c v rfl rfl).elim

theorem addFront_addFront {r s : List Byte} (h : r.length = s.length) (v : List Byte) :
    addFront r (addFront s v) = addFront (List.zipWith gfAdd s r) v := by
  induction r generalizing s v with
  | nil => rw [List.length_eq_zero_iff.mp h.symm]; rfl
  | cons a r ih =>
    obtain ⟨b, s, rfl⟩ := List.exists_cons_of_length_eq_add_one h.symm
    cases v with
    | nil => rfl
    | cons c v =>
      rw [cons_addFront_cons, cons_addFront_cons, ih (Nat.succ.inj h), List.zipWith_cons_cons, cons_addFront_cons,
        gfAdd_left_comm, gfAdd_assoc]

/-- The sum of polynomials of one degree, when the second is a multiple of a power of x. -/
theorem addRaw_append_replicate {v s : List Byte} {n : Nat} (h : v.length = s.length + n) :
    addRaw v (s ++ List.replicate n 0) = addFront s v := by
  have same : (s ++ List.replicate n 0).length = v.length := by rw [List.length_append, List.length_replicate, h]
  rw [addRaw, padTo, padTo, same, Nat.sub_self, List.replicate_zero, List.nil_append, List.nil_append]
  clear same
  induction s generalizing v with
  | nil =>
    obtain rfl : v.length = n := h.trans (Nat.zero_add n)
    rw [List.nil_append, List.zipWith_comm_of_comm gfAdd_comm, zipWith_replicate_zero, nil_addFront]
  | cons a s ih =>
    obtain ⟨c, v, rfl⟩ := List.exists_cons_of_length_eq_add_one (h.trans (Nat.add_right_comm _ _ _))
    rw [List.cons_append, List.zipWith_cons_cons, ih (by simp only [List.length_cons] at h; omega), cons_addFront_cons,
      gfAdd_comm]

/-! ### Long division by a monic divisor -/

section

variable {low : List Byte}

/-- A dividend of lower degree is the remainder. -/
theorem polyModLoop_of_length_le {v : List Byte} (fuel : Nat) (hlow : low ≠ []) (h : v.length ≤ low.length) :
    polyModLoop (1 :: low) 1 fuel (norm v) = norm v := by
  have pos := List.length_pos_iff.mpr hlow
  have le := norm_length_le v
  cases fuel with
  | zero => rfl
  | succ fuel =>
    refine if_neg fun hdeg => ?_
    rw [deg_cons low (by decide), deg, norm_norm] at hdeg
    omega

/-- One iteration eliminates the leading coefficient. -/
theorem polyModLoop_succ {f : Byte} {w : List Byte} (fuel : Nat) (hf : f ≠ 0) (h : low.length ≤ w.length) :
    polyModLoop (1 :: low) 1 (fuel + 1) (f :: w) =
      polyModLoop (1 :: low) 1 fuel (norm (addFront (scale f low) w)) := by
  have multiple : mulMonomial (1 :: low) (w.length - low.length) f =
      f :: scale f low ++ List.replicate (w.length - low.length) 0 := by
    rw [mulMonomial, if_neg hf, scale, List.map_cons, one_gfMul, ← scale, List.cons_append, norm_cons_of_ne_zero _ hf]
  have long : (f :: w).length = (f :: scale f low).length + (w.length - low.length) := by
    simp only [List.length_cons, scale_length]; omega
  rw [polyModLoop, deg_cons _ hf, deg_cons _ (by decide), lead_cons _ hf, gfMul_one,
    if_pos ⟨h, fun h0 => hf (List.cons_eq_cons.mp h0).1⟩, multiple, polyAdd, addRaw_append_replicate long,
    cons_addFront_cons, gfAdd_self, norm_zero_cons]

/-- With or without an iteration, a leading coefficient `f` goes and `f` times the divisor is added to the others. -/
theorem polyModLoop_eliminate {f : Byte} {w : List Byte} {fuel : Nat} (hlow : low ≠ []) (h : low.length ≤ w.length)
    (hfuel : (norm (f :: w)).length ≤ fuel + low.length) :
    ∃ fuel', (norm (addFront (scale f low) w)).length ≤ fuel' + low.length ∧
      polyModLoop (1 :: low) 1 fuel (norm (f :: w)) =
        polyModLoop (1 :: low) 1 fuel' (norm (addFront (scale f low) w)) := by
  by_cases hf : f = 0
  · subst f
    have unchanged : addFront (scale 0 low) w = w := by
      rw [scale, List.map_congr_left fun a _ => gfMul_zero_right a, List.map_const', addFront_replicate]
    rw [norm_zero_cons] at hfuel
    exact ⟨fuel, by rwa [unchanged], by rw [unchanged, norm_zero_cons]⟩
  · rw [norm_cons_of_ne_zero w hf, List.length_cons] at hfuel
    obtain ⟨fuel, rfl⟩ : ∃ k, fuel = k + 1 := ⟨fuel - 1, by omega⟩
    refine ⟨fuel, ?_, by rw [norm_cons_of_ne_zero w hf, polyModLoop_succ fuel hf h]⟩
    have pos := List.length_pos_iff.mpr hlow
    have le := norm_length_le (addFront (scale f low) w)
    rw [addFront_length] at le
    omega

/-! ### The shift register -/

/-- One byte through the register: a shift, and the multiple of the divisor that the byte asks for. -/
theorem lfsrStep_cons (r d : Byte) (reg : List Byte) :
    lfsrStep (1 :: low) (r :: reg) d = List.zipWith gfAdd (reg ++ [0]) (scale (gfAdd r d) low) := by
  simp only [lfsrStep, scale, List.headD_cons, List.tail_cons, List.zipWith_map_right, gfAdd_comm d r,
    gfMul_comm (gfAdd r d)]

theorem lfsrStep_length {reg : List Byte} (d : Byte) (hreg : reg.length = low.length) (hlow : low ≠ []) :
    (lfsrStep (1 :: low) reg d).length = low.length := by
  have pos := List.length_pos_iff.mpr hlow
  simp only [lfsrStep, List.length_zipWith, List.tail_cons, List.length_append, List.length_tail, List.length_cons,
    List.length_nil]
  omega

theorem foldl_lfsrStep_length {reg : List Byte} (data : List Byte) (hreg : reg.length = low.length) (hlow : low ≠ []) :
    (data.foldl (lfsrStep (1 :: low)) reg).length = low.length := by
  induction data generalizing reg with
  | nil => exact hreg
  | cons d data ih => exact ih (lfsrStep_length d hreg hlow)

/-- The long division of what is left of the message, with the register added to its first coefficients. -/
theorem polyModLoop_addFront {reg : List Byte} {fuel : Nat} (data : List Byte) (hreg : reg.length = low.length)
    (hlow : low ≠ [])
    (hfuel : (norm (addFront reg (data ++ List.replicate low.length 0))).length ≤ fuel + low.length) :
    polyModLoop (1 :: low) 1 fuel (norm (addFront reg (data ++ List.replicate low.length 0))) =
      norm (data.foldl (lfsrStep (1 :: low)) reg) := by
  induction data generalizing reg fuel with
  | nil =>
    rw [List.nil_append, ← hreg, addFront_zeros, List.foldl_nil]
    exact polyModLoop_of_length_le fuel hlow hreg.le
  | cons d data ih =>
    have hstep := lfsrStep_length d hreg hlow
    obtain ⟨r, reg, rfl⟩ := List.exists_cons_of_length_pos (hreg ▸ List.length_pos_iff.mpr hlow)
    have eliminated : addFront (scale (gfAdd r d) low) (addFront reg (data ++ List.replicate low.length 0)) =
        addFront (lfsrStep (1 :: low) (r :: reg) d) (data ++ List.replicate low.length 0) := by
      have same : (scale (gfAdd r d) low).length = (reg ++ [0]).length := by
        rw [scale_length, ← hreg, List.length_append]; rfl
      rw [lfsrStep_cons, ← addFront_addFront same, addFront_concat_zero]
    have long : low.length ≤ (addFront reg (data ++ List.replicate low.length 0)).length := by
      rw [addFront_length, List.length_append, List.length_replicate]; omega
    obtain ⟨fuel', hfuel', heq⟩ := polyModLoop_eliminate hlow long hfuel
    rw [eliminated] at hfuel' heq
    exact heq.trans (ih hstep hfuel')

/-- Division by a monic divisor needs no inverse. -/
theorem polyMod_monic (p : List Byte) :
    polyMod p (1 :: low) = polyModLoop (1 :: low) 1 (deg p - low.length + 1) (norm p) := by
  have inv_one : gfInv 1 = some 1 := by decide
  rw [polyMod, lead_cons low (by decide), inv_one, deg_cons low (by decide)]

theorem polyMod_eq_lfsr (data : List Byte) (hlow : low ≠ []) :
    polyMod (data ++ List.replicate low.length 0) (1 :: low) =
      norm (data.foldl (lfsrStep (1 :: low)) (List.replicate low.length 0)) := by
  have run := polyModLoop_addFront (reg := List.replicate low.length 0)
    (fuel := deg (data ++ List.replicate low.length 0) - low.length + 1) data List.length_replicate hlow
  rw [addFront_replicate] at run
  rw [polyMod_monic]
  exact run (by rw [deg]; omega)

end

/-! ### The EC bytes -/

theorem genPoly_low {e : Nat} (he : 1 ≤ e) : ∃ low, low ≠ [] ∧ low.length = e ∧ genPoly e = 1 :: low := by
  obtain ⟨low, hlen, hgen⟩ := exists_genPoly_eq e
  exact ⟨low, List.length_pos_iff.mp (by omega), hlen, hgen⟩

theorem rsEcLfsr_length (data : List Byte) {e : Nat} (he : 1 ≤ e) : (rsEcLfsr data e).length = e := by
  obtain ⟨low, hlow, rfl, hgen⟩ := genPoly_low he
  rw [rsEcLfsr, hgen, foldl_lfsrStep_length data List.length_replicate hlow]

theorem polyMod_genPoly (data : List Byte) {e : Nat} (he : 1 ≤ e) :
    polyMod (data ++ List.replicate e 0) (genPoly e) = norm (rsEcLfsr data e) := by
  obtain ⟨low, hlow, rfl, hgen⟩ := genPoly_low he
  rw [rsEcLfsr, hgen, polyMod_eq_lfsr data hlow]

/-- The multiple of R140 is the message with e zeros after it. -/
theorem mulMonomial_norm (data : List Byte) (e : Nat) :
    mulMonomial (norm data) e 1 = norm (data ++ List.replicate e 0) := by
  have scale_one : scale 1 (norm data) = norm data := by
    simp only [scale, gfMul_one, List.map_id']
  rw [mulMonomial, if_neg (by decide), scale_one, norm_norm_append]

theorem rsEc_eq_rsEcLfsr (data : List Byte) {e : Nat} (he : 1 ≤ e) : rsEc data e = rsEcLfsr data e := by
  have len := rsEcLfsr_length data he
  calc rsEc data e
      = rightAlign e (norm (rsEcLfsr data e)) := by
        rw [rsEc, mulMonomial_norm, polyMod_norm, polyMod_genPoly data he]
    _ = rightAlign (rsEcLfsr data e).length (norm (rsEcLfsr data e)) := by rw [len]
    _ = rsEcLfsr data e := rightAlign_norm (List.length_pos_iff.mp (by omega))

theorem rsEc_length (data : List Byte) {e : Nat} (he : 1 ≤ e) : (rsEc data e).length = e := by
  rw [rsEc_eq_rsEcLfsr data he, rsEcLfsr_length data he]

/-- Settles O24: the EC bytes are the register's e bytes, and the remainder is their normal form (`polyMod_genPoly`). -/
theorem ecBytesAreRemainderCoefficients : Obligations.EcBytesAreRemainderCoefficients := by
  unfold Obligations.EcBytesAreRemainderCoefficients
  intro data e _ he _
  have len := rsEc_length data he
  refine ⟨len, fun i hi => ?_⟩
  rw [polyMod_genPoly data he, coef_norm, ← rsEc_eq_rsEcLfsr data he, getElem?_eq_coef (len.symm ▸ hi), len]

/-- Settles O25, by induction on the data with any register (`polyModLoop_addFront`). -/
theorem shiftRegisterMeetsLongDivision : Obligations.ShiftRegisterMeetsLongDivision := by
  unfold Obligations.ShiftRegisterMeetsLongDivision
  exact fun data e _ he _ => (rsEc_eq_rsEcLfsr data he).symm

end Sys2Proof.Machine
end

section
/-! PROOFS. The blocks of RS_INTERLEAVE in closed form (42_interleave.md R161, R165), the place of a byte in the columns
(R166), and the two commands on operands that pass their checks (41_poly_rs.md R144, R145, 42_interleave.md R169). -/

namespace Sys2Proof.Machine

/-! ### The split -/

/-- A total split into `B` parts as even as possible, the larger ones last (42_interleave.md R161). -/
theorem split_total (N : Nat) {B : Nat} (hB : 1 ≤ B) : N / B * (B - N % B) + (N / B + 1) * (N % B) = N := by
  have parts : B - N % B + N % B = B := Nat.sub_add_cancel (Nat.mod_lt N hB).le
  calc N / B * (B - N % B) + (N / B + 1) * (N % B)
      = N / B * (B - N % B + N % B) + N % B := by ring
    _ = N := by rw [parts, Nat.div_add_mod']

theorem groups_block (T D B k : Nat) : (groups T D B).block k = (blockSize T D B k, T / B - D / B) := by
  simp only [Groups.block, groups, blockSize, Nat.add_sub_add_right]
  split <;> rfl

@[simp] theorem blockStart_zero (T D B : Nat) : blockStart T D B 0 = 0 := by
  unfold blockStart
  split
  next => exact Nat.zero_mul _
  next h => rw [Nat.eq_zero_of_not_pos h, Nat.zero_mul, Nat.zero_mul]

/-- The data of a block starts where the data of the block before it ends. -/
theorem blockStart_succ (T D B k : Nat) : blockStart T D B (k + 1) = blockStart T D B k + blockSize T D B k := by
  unfold blockStart blockSize
  rcases lt_trichotomy (k + 1) (B - T % B) with h | h | h
  · rw [if_pos h, if_pos (by omega), if_pos (by omega), Nat.succ_mul]
  · rw [if_neg (by omega), if_pos (by omega), if_pos (by omega), ← h, Nat.sub_self, Nat.zero_mul, Nat.succ_mul]
    rfl
  · rw [if_neg (by omega), if_neg (by omega), if_neg (by omega), Nat.succ_sub (by omega), Nat.succ_mul, Nat.add_assoc]

theorem blockStart_mono (T D B : Nat) : Monotone (blockStart T D B) :=
  monotone_nat_of_le_succ fun k => by rw [blockStart_succ]; exact Nat.le_add_right _ _

theorem sum_blockSize (T D B n : Nat) : ((List.range n).map (blockSize T D B)).sum = blockStart T D B n := by
  induction n with
  | zero => simp
  | succ n ih => rw [List.range_succ, List.map_append, List.sum_append, ih, blockStart_succ]; simp

/-- The data spans end at D (42_interleave.md R163). -/
theorem blockStart_last {T D B : Nat} (hB : 1 ≤ B) (hmod : D % B = T % B) : blockStart T D B B = D := by
  have last : B - (B - D % B) = D % B := Nat.sub_sub_self (Nat.mod_lt D hB).le
  rw [blockStart, ← hmod, if_neg (by omega), last, Nat.mul_comm, Nat.mul_comm (D % B), split_total D hB]

theorem one_le_blockSize {T D B : Nat} (k : Nat) (hd : 1 ≤ D / B) : 1 ≤ blockSize T D B k := by
  unfold blockSize
  split <;> omega

/-- Every data span lies in the first D bytes. -/
theorem blockEnd_le {T D B k : Nat} (hB : 1 ≤ B) (hmod : D % B = T % B) (hk : k < B) :
    blockStart T D B k + blockSize T D B k ≤ D := by
  rw [← blockStart_succ]
  exact (blockStart_mono T D B hk).trans_eq (blockStart_last hB hmod)

/-! ### The blocks -/

/-- Block `k` of the split (42_interleave.md R165). -/
def blockPair (s : State) (T D B k : Nat) : BlockPair where
  data := s.readBytes .inMem (blockStart T D B k) (blockSize T D B k)
  ec := rsEc (s.readBytes .inMem (blockStart T D B k) (blockSize T D B k)) (T / B - D / B)

theorem sliceFrom_eq_map (s : State) (T D B n k : Nat) :
    sliceFrom s (groups T D B) n k (blockStart T D B k) = (List.range' k n).map (blockPair s T D B) := by
  induction n generalizing k with
  | zero => rfl
  | succ n ih =>
    rw [sliceFrom, groups_block, ← blockStart_succ, ih, List.range'_succ, List.map_cons]
    rfl

theorem sliceAndEncode_eq_map (s : State) (T D B : Nat) :
    sliceAndEncode s T D B = (List.range B).map (blockPair s T D B) := by
  have slices := sliceFrom_eq_map s T D B B 0
  rw [blockStart_zero] at slices
  rw [sliceAndEncode, slices, List.range_eq_range']

theorem map_data_sliceAndEncode (s : State) (T D B : Nat) :
    (sliceAndEncode s T D B).map BlockPair.data = (List.range B).map (fun k => (blockPair s T D B k).data) := by
  rw [sliceAndEncode_eq_map, List.map_map]; rfl

theorem map_ec_sliceAndEncode (s : State) (T D B : Nat) :
    (sliceAndEncode s T D B).map BlockPair.ec = (List.range B).map (fun k => (blockPair s T D B k).ec) := by
  rw [sliceAndEncode_eq_map, List.map_map]; rfl

theorem data_length (s : State) (T D B k : Nat) : (blockPair s T D B k).data.length = blockSize T D B k :=
  State.readBytes_length _ _ _ _

theorem ec_length (s : State) {T D B : Nat} (k : Nat) (he : 1 ≤ T / B - D / B) :
    (blockPair s T D B k).ec.length = T / B - D / B :=
  rsEc_length _ he

/-! ### Columns -/

theorem column_cons (l : List Byte) (ls : List (List Byte)) (i : Nat) :
    column (l :: ls) i = l[i]?.toList ++ column ls i := by
  unfold column
  cases h : l[i]? <;> simp [h]

/-- A column that every list reaches. -/
theorem column_eq_map {ls : List (List Byte)} {i : Nat} (h : ∀ l ∈ ls, i < l.length) :
    column ls i = ls.map (fun l => l.getD i 0) := by
  induction ls with
  | nil => rfl
  | cons l ls ih =>
    obtain ⟨hl, hls⟩ := List.forall_mem_cons.mp h
    rw [column_cons, ih hls, List.map_cons, List.getElem?_eq_getElem hl, List.getD_eq_getElem _ _ hl]
    rfl

theorem length_le_maxLength {ls : List (List Byte)} {l : List Byte} (h : l ∈ ls) : l.length ≤ maxLength ls := by
  induction ls with
  | nil => cases h
  | cons m ls ih =>
    rcases List.mem_cons.mp h with rfl | h
    · exact le_max_left _ _
    · exact (ih h).trans (le_max_right _ _)

/-- A list reaches as many of the first `n` columns as it has bytes. -/
theorem sum_reached (l : List Byte) (n : Nat) :
    ((List.range n).map (fun i => l[i]?.toList.length)).sum = min n l.length := by
  induction n with
  | zero => simp
  | succ n ih =>
    have reached : l[n]?.toList.length = if n < l.length then 1 else 0 := by split <;> simp [*]
    rw [List.range_succ, List.map_append, List.sum_append, ih, List.map_singleton, List.sum_singleton, reached]
    split <;> omega

theorem columns_length (ls : List (List Byte)) {n : Nat} (h : ∀ l ∈ ls, l.length ≤ n) :
    ((List.range n).flatMap (column ls)).length = (ls.map List.length).sum := by
  rw [List.length_flatMap]
  induction ls with
  | nil => simp [column]
  | cons l ls ih =>
    obtain ⟨hl, hls⟩ := List.forall_mem_cons.mp h
    simp only [column_cons, List.length_append, List.sum_map_add, sum_reached, ih hls, List.map_cons, List.sum_cons,
      Nat.min_eq_right hl]

/-- Column after column, every byte of every list comes once. -/
theorem columnwise_length (ls : List (List Byte)) : (columnwise ls).length = (ls.map List.length).sum :=
  columns_length ls fun _ => length_le_maxLength

/-- The place of a byte after rows of `m` bytes. -/
theorem flatMap_range_getElem? {f : Nat → List Byte} {m n i k : Nat} (hf : ∀ j, j < i → (f j).length = m) (hi : i < n)
    (hk : k < (f i).length) : ((List.range n).flatMap f)[i * m + k]? = (f i)[k]? := by
  have before : ((List.range i).flatMap f).length = i * m := by
    rw [List.length_flatMap, List.map_congr_left fun j hj => hf j (List.mem_range.mp hj), List.map_const',
      List.sum_replicate, List.length_range, smul_eq_mul]
  obtain ⟨rest, rfl⟩ := Nat.exists_eq_add_of_lt hi
  rw [Nat.add_assoc, List.range_add, List.flatMap_append, List.getElem?_append_right (by omega), before,
    Nat.add_sub_cancel_left, List.range_succ_eq_map, List.map_cons, List.flatMap_cons, Nat.add_zero,
    List.getElem?_append_left hk]

/-- Byte `i` of list `k`, when every list reaches column `i` (42_interleave.md R166). -/
theorem columnwise_getElem? {ls : List (List Byte)} {l : List Byte} {i k : Nat} (hk : ls[k]? = some l)
    (h : ∀ l ∈ ls, i < l.length) : (columnwise ls)[i * ls.length + k]? = l[i]? := by
  have hmem := List.mem_of_getElem? hk
  have hklt : k < ls.length := (List.getElem?_eq_some_iff.mp hk).1
  have col := column_eq_map h
  have cols : ∀ j, j < i → (column ls j).length = ls.length := by
    intro j hj
    rw [column_eq_map fun l hl => hj.trans (h l hl), List.length_map]
  rw [columnwise, flatMap_range_getElem? cols ((h l hmem).trans_le (length_le_maxLength hmem))
    (by rwa [col, List.length_map]), col, List.getElem?_map, hk, Option.map_some, List.getD_eq_getElem _ _ (h l hmem),
    List.getElem?_eq_getElem]

/-! ### The codeword sequence -/

theorem dataColumns_length (s : State) {T D B : Nat} (hB : 1 ≤ B) (hmod : D % B = T % B) :
    (columnwise ((sliceAndEncode s T D B).map BlockPair.data)).length = D := by
  have lengths : List.length ∘ (fun k => (blockPair s T D B k).data) = blockSize T D B :=
    funext fun k => data_length s T D B k
  rw [columnwise_length, map_data_sliceAndEncode, List.map_map, lengths, sum_blockSize, blockStart_last hB hmod]

theorem ecColumns_length (s : State) {T D B : Nat} (he : 1 ≤ T / B - D / B) :
    (columnwise ((sliceAndEncode s T D B).map BlockPair.ec)).length = B * (T / B - D / B) := by
  have lengths : List.length ∘ (fun k => (blockPair s T D B k).ec) = fun _ => T / B - D / B :=
    funext fun k => ec_length s k he
  rw [columnwise_length, map_ec_sliceAndEncode, List.map_map, lengths, List.map_const', List.sum_replicate,
    List.length_range, smul_eq_mul]

/-- The codewords number T (42_interleave.md R167). -/
theorem interleave_length (s : State) {T D B : Nat} (hlegal : InterleaveLegal T D B) :
    (interleave (sliceAndEncode s T D B)).length = T := by
  obtain ⟨hB, -, hDT, he, -, -, hmod⟩ := hlegal
  have hT := Nat.div_add_mod T B
  have hD := Nat.div_add_mod D B
  have le : B * (D / B) ≤ B * (T / B) := Nat.mul_le_mul_left B (Nat.div_le_div_right hDT)
  rw [interleave, List.length_append, dataColumns_length s hB hmod, ecColumns_length s he, Nat.mul_sub]
  omega

/-- The place of EC byte `i` of block `k` (42_interleave.md R166). -/
theorem interleave_ec_getElem? (s : State) {T D B k i : Nat} (hlegal : InterleaveLegal T D B) (hk : k < B)
    (hi : i < T / B - D / B) :
    (interleave (sliceAndEncode s T D B))[D + i * B + k]? = (blockPair s T D B k).ec[i]? := by
  obtain ⟨hB, -, -, he, -, -, hmod⟩ := hlegal
  have hdata := dataColumns_length s hB hmod
  have count : ((List.range B).map (fun k => (blockPair s T D B k).ec)).length = B := by
    rw [List.length_map, List.length_range]
  have place := columnwise_getElem? (ls := (List.range B).map (fun k => (blockPair s T D B k).ec)) (i := i) (k := k)
    (l := (blockPair s T D B k).ec) (by rw [List.getElem?_map, List.getElem?_range hk, Option.map_some])
    (List.forall_mem_map.mpr fun k _ => (ec_length s k he).symm ▸ hi)
  rw [count] at place
  rw [interleave, List.getElem?_append_right (by omega), hdata, Nat.add_assoc, Nat.add_sub_cancel_left,
    map_ec_sliceAndEncode, place]

/-! ### The commands on operands that pass their checks -/

theorem interleaveChecks_pass {T D B : Nat} (hlegal : InterleaveLegal T D B) :
    firstError (interleaveChecks T D B) = none := by
  obtain ⟨hB, hT, hDT, he, he', hd, hmod⟩ := hlegal
  have total := split_total T hB
  have data := split_total D hB
  rw [hmod] at data
  have size : D / B + (T / B - D / B) = T / B := by omega
  have size' : D / B + 1 + (T / B - D / B) = T / B + 1 := by omega
  have parts : B - T % B + T % B = B := Nat.sub_add_cancel (Nat.mod_lt T hB).le
  have room : B ≤ D := (Nat.div_pos_iff.mp hd).2
  simp [interleaveChecks, rangeChecks, invariantChecks, encodeChecks, groups, Config.bufBytes, Config.maxEc, size,
    size', total, data, parts, Nat.ne_of_gt he, not_lt.mpr he', Nat.ne_of_gt hB, not_lt.mpr room, not_lt.mpr hT,
    not_lt.mpr hDT]

theorem exec_rsInterleave_legal {s : State} {T D B : Nat} (hT : s.opT = T) (hD : s.opD = D) (hB : s.opB = B)
    (hlegal : InterleaveLegal T D B) :
    exec .rsInterleave s =
      .next ((s.writeBytes .outMem 0 (interleave (sliceAndEncode s T D B))).setResult (natWord T)).succeed := by
  subst hT hD hB
  have count : firstError [((interleavedOut s).length != s.opT, .interleaveMismatch)] = none := by
    simp [interleavedOut, interleave_length s hlegal]
  rw [exec, execRsInterleave, State.checked_of_pass (interleaveChecks_pass hlegal), State.checked_of_pass count,
    interleavedOut]

theorem rsEncodeChecks_pass {off d e : Nat} (he : 1 ≤ e) (he' : e ≤ 255) (hd : 1 ≤ d) (hspan : off + d ≤ 4096) :
    firstError (rsEncodeChecks off d e) = none := by
  simp [rsEncodeChecks, spanCheck, Config.maxEc, Config.bufBytes, Nat.ne_of_gt he, not_lt.mpr he', Nat.ne_of_gt hd,
    not_lt.mpr hspan]

theorem exec_rsEncode_legal {s : State} {off d e : Nat} (hoff : s.opOff = off) (hD : s.opD = d) (hK : s.opK = e)
    (he : 1 ≤ e) (he' : e ≤ 255) (hd : 1 ≤ d) (hspan : off + d ≤ 4096) :
    exec .rsEncode s =
      .next ((s.writeBytes .ecMem 0 (rsEc (s.readBytes .inMem off d) e)).setResult (natWord e)).succeed := by
  subst hoff hD hK
  rw [exec, execRsEncode, State.checked_of_pass (rsEncodeChecks_pass he he' hd hspan)]

/-- A byte of a memory after a command wrote it from byte 0 on. -/
theorem byteAt_written {bs : List Byte} {i : Nat} {b : Byte} (s : State) (sp : Space) (w : Word)
    (h : bs[i]? = some b) : ((s.writeBytes sp 0 bs).setResult w).succeed.byteAt sp i = b := by
  obtain ⟨hi, rfl⟩ := List.getElem?_eq_some_iff.mp h
  have written := State.byteAt_writeBytes_inside s sp 0 bs hi
  rwa [Nat.zero_add] at written

/-- Settles O36: both commands write `rsEc` of the block's data span, RS_INTERLEAVE at the place that
`interleave_ec_getElem?` gives. -/
theorem encodeAgreesWithInterleave : Obligations.EncodeAgreesWithInterleave := by
  unfold Obligations.EncodeAgreesWithInterleave
  intro s T D B k hT hD hB hlegal hk
  have legal := hlegal
  obtain ⟨one_le_B, T_le, D_le, one_le_ec, ec_le, one_le_data, hmod⟩ := hlegal
  have size := one_le_blockSize (T := T) k one_le_data
  have stop := blockEnd_le one_le_B hmod hk
  have operand {n : Nat} (h : n ≤ 4096) : (BitVec.ofNat 16 n).toNat = n := Nat.mod_eq_of_lt (h.trans_lt (by decide))
  refine ⟨_, _, exec_rsInterleave_legal hT.symm hD.symm hB.symm legal,
    exec_rsEncode_legal (operand (by omega)) (operand (by omega)) (operand (by omega)) one_le_ec ec_le size (by omega),
    fun i hi => ?_⟩
  have byte : (blockPair s T D B k).ec[i]? = some _ := List.getElem?_eq_getElem (by rwa [ec_length s k one_le_ec])
  rw [byteAt_written _ .outMem _ ((interleave_ec_getElem? s legal hk hi).trans byte)]
  exact byteAt_written _ .ecMem _ byte

end Sys2Proof.Machine
end

section
/-! PROOFS. The three equations that the checks of 42_interleave.md R162 compare, for the split of R161, and what it
takes for those checks to raise no error. -/

namespace Sys2Proof.Machine

theorem groups_e1_eq_e2 (T D B : Nat) : (groups T D B).e1 = (groups T D B).e2 :=
  (Nat.add_sub_add_right (T / B) 1 (D / B)).symm

theorem groups_g1_add_g2 (T D : Nat) {B : Nat} (hB : 1 ≤ B) : (groups T D B).g1 + (groups T D B).g2 = B :=
  Nat.sub_add_cancel (Nat.mod_lt T hB).le

theorem groups_d1_add_e1 {T D : Nat} (B : Nat) (hDT : D ≤ T) :
    (groups T D B).d1 + (groups T D B).e1 = (groups T D B).t1 :=
  Nat.add_sub_of_le (Nat.div_le_div_right hDT)

theorem groups_d2_add_e2 {T D : Nat} (B : Nat) (hDT : D ≤ T) :
    (groups T D B).d2 + (groups T D B).e2 = (groups T D B).t2 :=
  Nat.add_sub_of_le (Nat.succ_le_succ (Nat.div_le_div_right hDT))

/-- The blocks of both groups together hold T bytes. -/
theorem groups_total {T D B : Nat} (hB : 1 ≤ B) (hDT : D ≤ T) :
    ((groups T D B).d1 + (groups T D B).e1) * (groups T D B).g1 +
      ((groups T D B).d2 + (groups T D B).e2) * (groups T D B).g2 = T := by
  rw [groups_d1_add_e1 B hDT, groups_d2_add_e2 B hDT]
  exact split_total T hB

theorem firstError_invariantChecks_eq_none {T B : Nat} {g : Groups} :
    firstError (invariantChecks T B g) = none ↔
      g.e1 = g.e2 ∧ g.g1 + g.g2 = B ∧ (g.d1 + g.e1) * g.g1 + (g.d2 + g.e2) * g.g2 = T := by
  rw [firstError_eq_none]
  simp [invariantChecks]

/-- Settles O31: the three equations hold of the split, and the checks compare nothing else
(`firstError_invariantChecks_eq_none`). -/
theorem groupsReconstructTotal : Obligations.GroupsReconstructTotal := by
  unfold Obligations.GroupsReconstructTotal
  intro T D B hB hDT
  have ec := groups_e1_eq_e2 T D B
  have count := groups_g1_add_g2 T D hB
  have total := groups_total hB hDT
  exact ⟨ec, count, total, firstError_invariantChecks_eq_none.mpr ⟨ec, count, total⟩⟩

end Sys2Proof.Machine
end

section
/-! PROOFS. The state after an aborted command (60_exceptions.md R204). -/

namespace Sys2Proof.Machine

theorem State.abort_eq_errStatus (s : State) (c : ErrCode) :
    s.abort c = { s with status := errStatus s.status c } :=
  rfl

/-- The only way for a command to end with ERR = 1 is `State.abort`, from the state it started in: nothing that it
writes comes before its last check. -/
theorem eq_abort_of_exec_err {i : Instr} {s t : State} (hexec : exec i s = .next t) (herr : t.status.err = true) :
    ∃ c, c ≠ .none ∧ t = s.abort c := by
  rcases exec_cases i s with ⟨c, hc, habort⟩ | ⟨u, -, hsucceed⟩
  · exact ⟨c, hc, Host.Outcome.next.inj (hexec.symm.trans habort)⟩
  · obtain rfl : t = u.succeed := Host.Outcome.next.inj (hexec.symm.trans hsucceed)
    simp at herr

/-- Settles O38: a command that ends with ERR = 1 is an abort (`eq_abort_of_exec_err`), and an abort changes STATUS
alone. -/
theorem abortChangesStatusOnly : Obligations.AbortChangesStatusOnly := by
  unfold Obligations.AbortChangesStatusOnly
  refine ⟨State.abort_eq_errStatus, fun i s t hexec herr => ?_⟩
  obtain ⟨c, hc, rfl⟩ := eq_abort_of_exec_err hexec herr
  exact ⟨s.abort_eq_errStatus c, hc⟩

end Sys2Proof.Machine
end

section
/-! PROOFS. Both resets end in `State.resetRegisters`, the hardware reset on a state whose memories are drawn anew
(70_reset_and_hazards.md R230, R233); what the host sees of the registers after it (10_state.md R49). -/

namespace Sys2Proof.Machine

/-! ### The registers after a reset -/

theorem Status.word_clear : Status.word ⟨false, false, false, false, .none⟩ = 0 := by decide

theorem IrqEnable.word_clear : IrqEnable.word ⟨false, false, false⟩ = 0 := by decide

/-- The reset values of 10_state.md R49: every register reads 0 except ID. -/
@[simp] theorem State.resetRegisters_regWord (s : State) (r : Reg) :
    s.resetRegisters.regWord r = if r = .id then Config.idWord else 0 := by
  cases r
  case status => exact Status.word_clear
  case irqEn => exact IrqEnable.word_clear
  all_goals rfl

@[simp] theorem State.resetRegisters_irq (s : State) : s.resetRegisters.irq = false := rfl

@[simp] theorem State.resetRegisters_busy (s : State) : s.resetRegisters.status.busy = false := rfl

/-! ### Soft reset -/

/-- The busy rule never holds a write of CTRL back, so SOFT_RESET takes effect (70_reset_and_hazards.md R233). -/
theorem busWrite_ctrl_softReset {w : Word} (s : State) (h0 : w.getLsbD 0 = true) :
    busWrite Reg.ctrl.offset w 0b1111 s = (s.softReset, .ok) := by
  rw [busWrite_reg_accepted w s rfl (.inr rfl), State.writeReg, s.writeCtrl_softReset h0]

theorem State.softReset_byteAtAddr (s : State) (a : Nat) : s.softReset.byteAtAddr a = s.byteAtAddr a :=
  State.byteAtAddr_congr s.softReset_mem s.softReset_epoch a

/-- Settles O2: the write's effect is `State.softReset`, which leaves the memories and the reset count alone. -/
theorem softResetKeepsMemories : Obligations.SoftResetKeepsMemories := by
  unfold Obligations.SoftResetKeepsMemories
  exact fun s w h0 => ⟨s.softReset, busWrite_ctrl_softReset s h0, s.resetRegisters_regWord, s.resetRegisters_busy,
    s.resetRegisters_irq, s.softReset_byteAtAddr⟩

/-! ### Hardware reset -/

/-- Asserting the reset input, and any level given to it while it is asserted, resets the registers of a state with no
written byte (70_reset_and_hazards.md R230, R231). -/
theorem State.setRst_eq_resetRegisters {s : State} {level : Bool} (h : level = true ∨ s.rst = true) :
    s.setRst level = ({ s with mem := [], rst := level, epoch := s.epoch + 1 } : State).resetRegisters := by
  cases level with
  | true => rfl
  | false => exact if_pos (h.resolve_left Bool.false_ne_true)

/-- While the reset input is asserted and nothing is pending, a step is idle or sets the input's level: the engine
has no turn, and a bus transaction is a fault. -/
theorem step_cases_under_reset {s t : State} (hrst : s.rst = true) (hidle : s.status.busy = false)
    (h : step s = .next t) : t = s ∨ ∃ rest level, t = (s.takeInput rest).setRst level := by
  have noTurn : ¬ s.engineTurn = true := by simp [State.engineTurn, hidle]
  rcases step_cases h with ⟨turn, -⟩ | ⟨turn, -⟩ | ⟨-, -, ht⟩ | ⟨-, i, rest, -, noTransaction, ht⟩
  · exact absurd turn noTurn
  · exact absurd turn noTurn
  · exact .inl ht
  · cases i with
    | rst level => exact .inr ⟨rest, level, ht⟩
    | read | write | waitIdle => cases noTransaction hrst

/-- Settles O1: `State.reset` is already its own `State.resetRegisters`, asserting or releasing the reset input ends in
that operation (`State.setRst_eq_resetRegisters`), and any other step under reset is idle (`step_cases_under_reset`). -/
theorem hardwareResetClearsRegisters : Obligations.HardwareResetClearsRegisters := by
  unfold Obligations.HardwareResetClearsRegisters
  refine ⟨State.reset.resetRegisters_regWord, State.reset.resetRegisters_irq, State.reset.resetRegisters_busy,
    fun s level hreset => ?_, fun s t hrst hidle hstep => ?_⟩
  · rw [State.setRst_eq_resetRegisters hreset]
    exact ⟨State.resetRegisters_regWord _, State.resetRegisters_irq _, State.resetRegisters_busy _, rfl⟩
  · rcases step_cases_under_reset hrst hidle hstep with rfl | ⟨rest, level, rfl⟩
    · exact .inl fun _ => rfl
    · rw [State.setRst_eq_resetRegisters (s := s.takeInput rest) (.inr hrst)]
      exact .inr (State.resetRegisters_regWord _)

end Sys2Proof.Machine
end

section
/-! PROOFS. The decoder at an encoded word, format by format (30_encoding.md R81 to R87), and the obligations on
encoding. -/

namespace Sys2Proof

theorem decodeBare_encodeBare (op : Byte) (i : Instr) : decodeBare (encodeBare op) i = .command i :=
  if_pos ((mbz_bare_iff _).mpr (Nat.div_eq_of_lt (encodeBare_lt op)))

theorem decodeG1_encodeG1 (op a : Byte) (f : Byte → Instr) : decodeG1 (encodeG1 op a) f = .command (f a) := by
  rw [decodeG1_of_mbz f ((mbz_g1_iff _).mpr (Nat.div_eq_of_lt (encodeG1_lt op a))), operandA_encodeG1]

theorem decodeG2_encodeG2 (op a bv : Byte) (f : Byte → Byte → Instr) :
    decodeG2 (encodeG2 op a bv) f = .command (f a bv) := by
  rw [decodeG2_of_mbz f ((mbz_g2_iff _).mpr (Nat.div_eq_of_lt (encodeG2_lt op a bv))), operandA_encodeG2,
    operandBv_encodeG2]

section

variable {w : Word}

theorem decode_nop (hop : opField w = 0x00) : decode w = decodeBare w .nop := by simp [decode, hop]
theorem decode_genPoly (hop : opField w = 0x10) : decode w = decodeG1 w .genPoly := by simp [decode, hop]
theorem decode_polyEval (hop : opField w = 0x11) : decode w = decodeG1 w .polyEval := by simp [decode, hop]
theorem decode_rsEncode (hop : opField w = 0x20) : decode w = decodeBare w .rsEncode := by simp [decode, hop]
theorem decode_rsBlockinfo (hop : opField w = 0x21) : decode w = decodeBare w .rsBlockinfo := by simp [decode, hop]
theorem decode_rsInterleave (hop : opField w = 0x22) : decode w = decodeBare w .rsInterleave := by
  simp [decode, hop]

end

/-- The word of a command decodes to it: OP selects the command's row, and its format gives the operands back. -/
theorem decode_encode (i : Instr) : decode (encode i) = .command i := by
  cases i with
  | nop => exact (decode_nop (opField_encode .nop)).trans (decodeBare_encodeBare _ _)
  | gfAdd a bv => exact (decode_gfAdd (opField_encode (.gfAdd a bv))).trans (decodeG2_encodeG2 _ _ _ _)
  | gfMul a bv => exact (decode_gfMul (opField_encode (.gfMul a bv))).trans (decodeG2_encodeG2 _ _ _ _)
  | gfInv a => exact (decode_gfInv (opField_encode (.gfInv a))).trans (decodeG1_encodeG1 _ _ _)
  | gfExp k => exact (decode_gfExp (opField_encode (.gfExp k))).trans (decodeG1_encodeG1 _ _ _)
  | gfLog a => exact (decode_gfLog (opField_encode (.gfLog a))).trans (decodeG1_encodeG1 _ _ _)
  | genPoly n => exact (decode_genPoly (opField_encode (.genPoly n))).trans (decodeG1_encodeG1 _ _ _)
  | polyEval x => exact (decode_polyEval (opField_encode (.polyEval x))).trans (decodeG1_encodeG1 _ _ _)
  | rsEncode => exact (decode_rsEncode (opField_encode .rsEncode)).trans (decodeBare_encodeBare _ _)
  | rsBlockinfo => exact (decode_rsBlockinfo (opField_encode .rsBlockinfo)).trans (decodeBare_encodeBare _ _)
  | rsInterleave =>
    exact (decode_rsInterleave (opField_encode .rsInterleave)).trans (decodeBare_encodeBare _ _)

/-- Settles O6: the command's word decodes to it (`decode_encode`), and no other word does (`encode_of_decode`). -/
theorem decodeAndEncodeAgree : Obligations.DecodeAndEncodeAgree := by
  unfold Obligations.DecodeAndEncodeAgree
  exact ⟨decode_encode, fun _ _ => encode_of_decode⟩

/-- Settles O5: the six words are the encodings of their commands; the two illegal words are decoded field by field. -/
theorem sampleWordsDecode : Obligations.SampleWordsDecode := by
  unfold Obligations.SampleWordsDecode
  exact ⟨decode_encode .nop, decode_encode (.gfAdd 0x53 0xCA), decode_encode (.gfMul 0x80 0x02),
    decode_encode (.genPoly 2), decode_encode .rsEncode, decode_encode .rsInterleave, by decide, by decide⟩

end Sys2Proof
end

section
/-! PROOFS. Every command in one form: an ordered list of checks and, when all of them pass, one effect (60_exceptions.md
R203 to R206). What a command can raise, what it writes and what it leaves alone are read off the two parts. -/

namespace Sys2Proof.Machine

/-! ### The form of a command -/

/-- The checks of a command in their order; the domain errors of GF_INV and GF_LOG are checks too. -/
def commandChecks (s : State) : Instr → List (Bool × ErrCode)
  | .gfInv a => [(a == 0, .gfDomain)]
  | .gfLog a => [(a == 0, .gfDomain)]
  | .polyEval _ => [(s.opD == 0, .noDataBytes), spanCheck s.opOff s.opD]
  | .rsEncode => rsEncodeChecks s.opOff s.opD s.opK
  | .rsBlockinfo => blockinfoChecks s.opT s.opD s.opB s.opK
  | .rsInterleave =>
    interleaveChecks s.opT s.opD s.opB ++ [((interleavedOut s).length != s.opT, .interleaveMismatch)]
  | _ => []

/-- The memory a command writes from byte 0 on, and the bytes; a command that writes none has an empty list. -/
def commandOutput (s : State) : Instr → Space × List Byte
  | .genPoly n => (.genMem, genPoly n.toNat)
  | .rsEncode => (.ecMem, rsEc (s.readBytes .inMem s.opOff s.opD) s.opK)
  | .rsInterleave => (.outMem, interleavedOut s)
  | _ => (.outMem, [])

/-- What a command that succeeds leaves in RESULT; NOP leaves it as it was (10_state.md R32). -/
def commandResult (s : State) : Instr → Word
  | .nop => s.result
  | .gfAdd a bv => zext32 (gfAdd a bv)
  | .gfMul a bv => zext32 (gfMul a bv)
  | .gfInv a => zext32 ((gfInv a).getD 0)
  | .gfExp k => zext32 (expOf k.toNat)
  | .gfLog a => natWord ((logOf a).getD 0)
  | .genPoly n => zext32 n
  | .polyEval x => zext32 (polyEval (s.readBytes .inMem s.opOff s.opD) x)
  | .rsEncode => natWord s.opK
  | .rsBlockinfo => pairWord (blockInfo s.opT s.opD s.opB s.opK).1 (blockInfo s.opT s.opD s.opB s.opK).2
  | .rsInterleave => natWord s.opT

/-- What a command that succeeds leaves in GEN_DEG (10_state.md R38). -/
def commandGenDeg (s : State) : Instr → Byte
  | .genPoly n => n
  | _ => s.genDeg

/-- The state after a command that succeeds. -/
def commandDone (s : State) (i : Instr) : State :=
  (((s.writeBytes (commandOutput s i).1 0 (commandOutput s i).2).setGenDeg (commandGenDeg s i)).setResult
    (commandResult s i)).succeed

theorem State.checked_append (s : State) (l m : List (Bool × ErrCode))
    (body : Unit → Host.Outcome State Fault Refusal) :
    s.checked (l ++ m) body = s.checked l fun _ => s.checked m body := by
  unfold State.checked
  rw [firstError_append]
  cases firstError l <;> rfl

/-- A command is its checks, then its effect. -/
theorem exec_eq_checked (i : Instr) (s : State) :
    exec i s = s.checked (commandChecks s i) fun _ => .next (commandDone s i) := by
  cases i with
  | gfInv a =>
    by_cases ha : a = 0
    · subst ha; rfl
    · obtain ⟨r, hr, -⟩ := exists_gfInv a ha
      have pass : firstError (commandChecks s (.gfInv a)) = none := by simpa [commandChecks] using ha
      have result : commandResult s (.gfInv a) = zext32 r := by rw [commandResult, hr, Option.getD_some]
      rw [State.checked_of_pass pass, exec_gfInv_of_some s hr, commandDone, result]; rfl
  | gfLog a =>
    by_cases ha : a = 0
    · subst ha; rfl
    · have hlog := logOf_of_ne_zero ha
      have pass : firstError (commandChecks s (.gfLog a)) = none := by simpa [commandChecks] using ha
      have result : commandResult s (.gfLog a) = natWord (tableEntry logRows a.toNat) := by
        rw [commandResult, hlog, Option.getD_some]
      rw [State.checked_of_pass pass, exec_gfLog_of_some s hlog, commandDone, result]; rfl
  | rsInterleave => exact (s.checked_append _ _ _).symm
  | nop | gfAdd | gfMul | gfExp | genPoly | polyEval | rsEncode | rsBlockinfo => rfl

theorem exec_of_error {i : Instr} {s : State} {c : ErrCode} (h : firstError (commandChecks s i) = some c) :
    exec i s = .next (s.abort c) := by
  rw [exec_eq_checked, State.checked_of_error h]

theorem exec_of_pass {i : Instr} {s : State} (h : firstError (commandChecks s i) = none) :
    exec i s = .next (commandDone s i) := by
  rw [exec_eq_checked, State.checked_of_pass h]

/-- Both ways in which a command ends. -/
theorem exec_outcomes {i : Instr} {s t : State} (h : exec i s = .next t) :
    (∃ c, c ≠ .none ∧ firstError (commandChecks s i) = some c ∧ t = s.abort c) ∨
      (firstError (commandChecks s i) = none ∧ t = commandDone s i) := by
  cases hc : firstError (commandChecks s i) with
  | none => exact .inr ⟨rfl, Host.Outcome.next.inj (h.symm.trans (exec_of_pass hc))⟩
  | some c =>
    have abort := exec_of_error hc
    obtain ⟨d, hd, heq⟩ := eq_abort_of_exec_err abort rfl
    have same : c = d := congrArg (·.status.errcode) heq
    exact .inl ⟨c, same ▸ hd, rfl, Host.Outcome.next.inj (h.symm.trans abort)⟩

/-! ### The checks -/

/-- Checks that fail only together with one before them change nothing. -/
theorem firstError_append_of_pass {l m : List (Bool × ErrCode)} (h : firstError l = none → firstError m = none) :
    firstError (l ++ m) = firstError l := by
  rw [firstError_append]
  cases hl : firstError l with
  | none => rw [h hl]; rfl
  | some c => rfl

theorem rangeChecks_pass_iff {T D B : Nat} :
    firstError (rangeChecks T D B) = none ↔ 1 ≤ B ∧ T ≤ 4096 ∧ D ≤ T := by
  rw [firstError_eq_none]
  simp [rangeChecks, Config.bufBytes, Nat.one_le_iff_ne_zero]

/-- The invariant checks of 42_interleave.md R162 pass wherever the range checks do. -/
theorem invariantChecks_pass {T D B : Nat} (h : firstError (rangeChecks T D B) = none) :
    firstError (invariantChecks T B (groups T D B)) = none := by
  obtain ⟨hB, -, hDT⟩ := rangeChecks_pass_iff.mp h
  exact firstError_invariantChecks_eq_none.mpr
    ⟨groups_e1_eq_e2 T D B, groups_g1_add_g2 T D hB, groups_total hB hDT⟩

/-- The checks of RS_BLOCKINFO that can fail (42_interleave.md R168). -/
theorem firstError_blockinfoChecks (T D B K : Nat) :
    firstError (blockinfoChecks T D B K) =
      firstError (rangeChecks T D B ++ [(decide (K ≥ B), .blockIdRange)]) :=
  firstError_append_of_pass fun h => invariantChecks_pass (by
    rw [firstError_append] at h
    exact (Option.or_eq_none_iff.mp h).1)

/-- The checks of RS_INTERLEAVE before the encoding that can fail (42_interleave.md R169). -/
theorem firstError_interleaveChecks (T D B : Nat) :
    firstError (interleaveChecks T D B) = firstError (rangeChecks T D B ++ encodeChecks D (groups T D B)) := by
  rw [interleaveChecks, firstError_append, firstError_append_of_pass invariantChecks_pass, ← firstError_append]

theorem groups_data (T : Nat) {D B : Nat} (hB : 1 ≤ B) :
    (groups T D B).d1 * (groups T D B).g1 + (groups T D B).d2 * (groups T D B).g2 = B * (D / B) + T % B := by
  have parts := groups_g1_add_g2 T D hB
  calc D / B * (groups T D B).g1 + (D / B + 1) * (groups T D B).g2
      = ((groups T D B).g1 + (groups T D B).g2) * (D / B) + (groups T D B).g2 := by ring
    _ = B * (D / B) + T % B := by rw [parts, groups]

/-- The data spans of the split are D bytes exactly when the remainders agree (42_interleave.md R163). -/
theorem groups_data_eq_iff (T : Nat) {D B : Nat} (hB : 1 ≤ B) :
    (groups T D B).d1 * (groups T D B).g1 + (groups T D B).d2 * (groups T D B).g2 = D ↔ D % B = T % B := by
  have hD := Nat.div_add_mod D B
  rw [groups_data T hB]
  omega

theorem encodeChecks_pass_iff {T D B : Nat} (hB : 1 ≤ B) :
    firstError (encodeChecks D (groups T D B)) = none ↔
      1 ≤ T / B - D / B ∧ T / B - D / B ≤ 255 ∧ 1 ≤ D / B ∧ D % B = T % B := by
  rw [← groups_data_eq_iff T hB, firstError_eq_none]
  simp only [encodeChecks, List.forall_mem_cons, Config.maxEc, Nat.one_le_iff_ne_zero]
  simp [groups]

theorem interleaveChecks_pass_iff {T D B : Nat} :
    firstError (interleaveChecks T D B) = none ↔ InterleaveLegal T D B := by
  rw [firstError_interleaveChecks, firstError_append, Option.or_eq_none_iff, rangeChecks_pass_iff]
  constructor
  · rintro ⟨⟨hB, hT, hDT⟩, h⟩
    exact ⟨hB, hT, hDT, (encodeChecks_pass_iff hB).mp h⟩
  · rintro ⟨hB, hT, hDT, h⟩
    exact ⟨⟨hB, hT, hDT⟩, (encodeChecks_pass_iff hB).mpr h⟩

theorem rsEncodeChecks_pass_iff {off d e : Nat} :
    firstError (rsEncodeChecks off d e) = none ↔ 1 ≤ e ∧ e ≤ 255 ∧ 1 ≤ d ∧ off + d ≤ 4096 := by
  rw [firstError_eq_none]
  simp [rsEncodeChecks, spanCheck, Config.maxEc, Config.bufBytes, Nat.one_le_iff_ne_zero]

/-- The final count of RS_INTERLEAVE never fails (42_interleave.md R167). -/
theorem firstError_commandChecks_rsInterleave (s : State) :
    firstError (commandChecks s .rsInterleave) =
      firstError (rangeChecks s.opT s.opD s.opB ++ encodeChecks s.opD (groups s.opT s.opD s.opB)) := by
  rw [← firstError_interleaveChecks]
  refine firstError_append_of_pass fun h => ?_
  simp [interleavedOut, interleave_length s (interleaveChecks_pass_iff.mp h)]

/-- The codes other than those of the checks that cannot fail (42_interleave.md R162, R167). -/
def ErrCode.Reachable (c : ErrCode) : Prop :=
  c ≠ .ecMismatch ∧ c ≠ .blockMismatch ∧ c ≠ .totalMismatch ∧ c ≠ .interleaveMismatch

theorem reachable_of_firstError {l : List (Bool × ErrCode)} {c : ErrCode} (h : firstError l = some c)
    (hl : ∀ x ∈ l, x.2.Reachable) : c.Reachable :=
  hl _ (firstError_mem h)

/-- The first error of a command is a check other than the four that cannot fail. -/
theorem reachable_of_commandChecks {i : Instr} {s : State} {c : ErrCode}
    (h : firstError (commandChecks s i) = some c) : c.Reachable := by
  cases i with
  | rsBlockinfo =>
    rw [commandChecks, firstError_blockinfoChecks] at h
    exact reachable_of_firstError h (by simp [rangeChecks, ErrCode.Reachable])
  | rsInterleave =>
    rw [firstError_commandChecks_rsInterleave] at h
    exact reachable_of_firstError h (by simp [rangeChecks, encodeChecks, ErrCode.Reachable])
  | polyEval x => exact reachable_of_firstError h (by simp [commandChecks, spanCheck, ErrCode.Reachable])
  | rsEncode =>
    exact reachable_of_firstError h (by simp [commandChecks, rsEncodeChecks, spanCheck, ErrCode.Reachable])
  | gfInv | gfLog => exact reachable_of_firstError h (by simp [commandChecks, ErrCode.Reachable])
  | nop | gfAdd | gfMul | gfExp | genPoly => cases h

/-- Settles O41: an abort's code is reachable (`reachable_of_commandChecks`), and a success leaves NONE. -/
theorem invariantCodesUnreachable : Obligations.InvariantCodesUnreachable := by
  unfold Obligations.InvariantCodesUnreachable
  intro i s t h
  rcases exec_outcomes h with ⟨c, -, hc, rfl⟩ | ⟨-, rfl⟩
  · exact reachable_of_commandChecks hc
  · exact ⟨nofun, nofun, nofun, nofun⟩

/-! ### What a successful command writes -/

section

variable (s : State) (i : Instr)

@[simp] theorem commandDone_result : (commandDone s i).result = commandResult s i := rfl

/-- A command leaves every other field as it was. -/
theorem commandDone_eq : commandDone s i = { s with
    mem := (commandDone s i).mem
    genDeg := commandGenDeg s i
    result := commandResult s i
    status := doneStatus s.status } := rfl

end

/-- The bytes a command writes lie in their memory; RS_ENCODE never reaches the last byte of its own
(10_state.md R43). -/
theorem commandOutput_length_le {i : Instr} {s : State} (h : firstError (commandChecks s i) = none) :
    (commandOutput s i).2.length ≤ (commandOutput s i).1.size ∧
      (i = .rsEncode → (commandOutput s i).2.length ≤ 255) := by
  cases i with
  | genPoly n => exact ⟨(genPoly_length_le n.toNat).trans n.isLt, nofun⟩
  | rsEncode =>
    obtain ⟨he, he', -⟩ := rsEncodeChecks_pass_iff.mp h
    have len : (commandOutput s .rsEncode).2.length = s.opK := rsEc_length _ he
    rw [len]
    exact ⟨he'.trans (show 255 ≤ Space.ecMem.size by decide), fun _ => he'⟩
  | rsInterleave =>
    rw [firstError_commandChecks_rsInterleave, ← firstError_interleaveChecks, interleaveChecks_pass_iff] at h
    have ⟨_, hT, _⟩ := h
    have len : (commandOutput s .rsInterleave).2.length = s.opT := interleave_length s h
    rw [len]
    exact ⟨hT, nofun⟩
  | nop | gfAdd | gfMul | gfInv | gfExp | gfLog | polyEval | rsBlockinfo => exact ⟨Nat.zero_le _, nofun⟩

theorem commandDone_byteAtAddr_outside (s : State) (i : Instr) {a : Nat}
    (h : a < (commandOutput s i).1.base ∨ (commandOutput s i).1.base + (commandOutput s i).2.length ≤ a) :
    (commandDone s i).byteAtAddr a = s.byteAtAddr a :=
  State.byteAtAddr_writeBytes_outside s _ 0 _ h

/-- The memories that commands write, by command (10_state.md R50). -/
theorem commandDone_changes_byte {i : Instr} {s : State} {a : Nat} (h : firstError (commandChecks s i) = none)
    (hne : (commandDone s i).byteAtAddr a ≠ s.byteAtAddr a) :
    i = .rsInterleave ∧ 0x2000 ≤ a ∧ a < 0x3000 ∨ (∃ n, i = .genPoly n) ∧ 0x3000 ≤ a ∧ a < 0x3100 ∨
      i = .rsEncode ∧ 0x3100 ≤ a ∧ a < 0x31FF := by
  obtain ⟨size, short⟩ := commandOutput_length_le h
  have inside : ¬(a < (commandOutput s i).1.base ∨
      (commandOutput s i).1.base + (commandOutput s i).2.length ≤ a) :=
    fun out => hne (commandDone_byteAtAddr_outside s i out)
  cases i with
  | rsInterleave =>
    simp only [commandOutput, Space.base, Space.size, Config.bufBytes] at inside size
    exact .inl ⟨rfl, by omega, by omega⟩
  | genPoly n =>
    simp only [commandOutput, Space.base, Space.size, Config.genBytes] at inside size
    exact .inr (.inl ⟨⟨n, rfl⟩, by omega, by omega⟩)
  | rsEncode =>
    have short := short rfl
    simp only [commandOutput, Space.base] at inside short
    exact .inr (.inr ⟨rfl, by omega, by omega⟩)
  | nop | gfAdd | gfMul | gfInv | gfExp | gfLog | polyEval | rsBlockinfo =>
    simp only [commandOutput, List.length_nil] at inside
    omega

theorem commandOutput_eq_nil {i : Instr} (s : State) (hgen : ∀ n, i ≠ .genPoly n) (henc : i ≠ .rsEncode)
    (hint : i ≠ .rsInterleave) : (commandOutput s i).2 = [] := by
  cases i with
  | genPoly n => exact absurd rfl (hgen n)
  | rsEncode => exact absurd rfl henc
  | rsInterleave => exact absurd rfl hint
  | nop | gfAdd | gfMul | gfInv | gfExp | gfLog | polyEval | rsBlockinfo => rfl

theorem commandDone_mem {i : Instr} (s : State) (hgen : ∀ n, i ≠ .genPoly n) (henc : i ≠ .rsEncode)
    (hint : i ≠ .rsInterleave) : (commandDone s i).mem = s.mem := by
  rw [commandDone, commandOutput_eq_nil s hgen henc hint]; rfl

theorem commandGenDeg_eq {i : Instr} (s : State) (hgen : ∀ n, i ≠ .genPoly n) : commandGenDeg s i = s.genDeg := by
  cases i with
  | genPoly n => exact absurd rfl (hgen n)
  | _ => rfl

/-- No command writes IN_MEM. -/
theorem exec_byteAtAddr_inMem {i : Instr} {s t : State} (h : exec i s = .next t) {a : Nat} (ha : a < 0x2000) :
    t.byteAtAddr a = s.byteAtAddr a := by
  rcases exec_outcomes h with ⟨c, -, -, rfl⟩ | ⟨pass, rfl⟩
  · rfl
  · by_contra hne
    have := commandDone_changes_byte pass hne
    omega

/-- Settles O39: an abort and a success write STATUS, RESULT, GEN_DEG and memory at most, and no command writes IN_MEM
(`exec_byteAtAddr_inMem`). -/
theorem commandsKeepOperands : Obligations.CommandsKeepOperands := by
  unfold Obligations.CommandsKeepOperands
  intro i s
  obtain ⟨t, h⟩ := exec_next i s
  have inMem : ∀ a, a < 0x2000 → t.byteAtAddr a = s.byteAtAddr a := fun _ => exec_byteAtAddr_inMem h
  refine ⟨t, h, ?_⟩
  rcases exec_outcomes h with ⟨c, -, -, rfl⟩ | ⟨-, rfl⟩
  · exact ⟨rfl, ⟨nofun, nofun⟩, rfl, rfl, rfl, rfl, rfl, rfl, rfl, rfl, rfl, rfl, inMem⟩
  · exact ⟨rfl, ⟨fun _ => rfl, fun _ => rfl⟩, rfl, rfl, rfl, rfl, rfl, rfl, rfl, rfl, rfl, rfl, inMem⟩

/-- Settles O40: an abort changes STATUS alone, and a success is `commandGenDeg_eq` and `commandDone_mem`. -/
theorem otherCommandsKeepMemories : Obligations.OtherCommandsKeepMemories := by
  unfold Obligations.OtherCommandsKeepMemories
  intro i s t h
  rcases exec_outcomes h with ⟨c, -, -, rfl⟩ | ⟨-, rfl⟩
  · exact ⟨fun _ => rfl, fun _ _ _ => ⟨rfl, fun _ => rfl⟩⟩
  · refine ⟨commandGenDeg_eq s, fun hgen henc hint => ?_⟩
    have mem := commandDone_mem s hgen henc hint
    exact ⟨mem, State.byteAtAddr_congr mem rfl⟩

end Sys2Proof.Machine
end

section
/-! PROOFS. What one input of the host does, as one list of effects, and what one step does; the invariant, the machine
that never stops, the pending command, and the writers of memories and registers are read off the two lists. -/

namespace Sys2Proof.Machine

/-! ### The effects of the host's inputs -/

/-- The ARG register `q` takes `v`; the other four stay, and all five stay where `q` is none of them. -/
def State.withArg (s : State) (q : Reg) (v : Half) : State :=
  { s with
    argT := if q = .argT then v else s.argT
    argD := if q = .argD then v else s.argD
    argB := if q = .argB then v else s.argB
    argK := if q = .argK then v else s.argK
    argOff := if q = .argOff then v else s.argOff }

/-- What an input that resets nothing does (20_memory.md R60 to R69, 10_state.md R29 to R37). -/
inductive HostEffect (s : State) : Input → State → Prop
  | read (addr : BitVec 16) : HostEffect s (.read addr) (s.doRead addr)
  | wait (inputs : List Input) (h : inputs = s.inputs ∨ inputs = .waitIdle :: s.inputs) :
      HostEffect s .waitIdle { s.doRead Reg.status.offset with inputs := inputs }
  | nothing (addr : BitVec 16) (w : Word) (strb : BitVec 4) (r : Option Response) :
      HostEffect s (.write addr w strb) { s with response := r }
  | busyRefused (addr : BitVec 16) (w : Word) (strb : BitVec 4) (r : Option Response)
      (busy : s.status.busy = true) (locked : LockedWrite addr strb) :
      HostEffect s (.write addr w strb) { s with status := s.status.accessRefused, response := r }
  | clear (w : Word) (r : Option Response) (bit : w.getLsbD 1 = true) :
      HostEffect s (.write 0x0008 w 0b1111) { s with status := s.status.cleared, response := r }
  | irqEn (w : Word) (r : Option Response) :
      HostEffect s (.write 0x000C w 0b1111) { s with irqEn := IrqEnable.ofWord w, response := r }
  | accept (w : Word) (r : Option Response) (idle : s.status.busy = false) :
      HostEffect s (.write 0x0010 w 0b1111) { s.accept w with response := r }
  | arg (q : Reg) (w : Word) (r : Option Response) (idle : s.status.busy = false) :
      HostEffect s (.write q.offset w 0b1111) { s.withArg q (w.extractLsb' 0 16) with response := r }
  | lanes (addr : BitVec 16) (w : Word) (strb : BitVec 4) (r : Option Response) (i : Nat)
      (idle : s.status.busy = false) (word : addr.toNat = 0x1000 + i) (inside : i + 4 ≤ 4096) :
      HostEffect s (.write addr w strb)
        { s with mem := (s.writeLanes .inMem i w strb).mem, response := r }

/-- An accepted write of a register that is no soft reset. -/
theorem hostEffect_writeReg {r : Reg} (w : Word) {s : State} (resp : Option Response)
    (hro : (Target.reg r).readOnly = false)
    (hfree : s.status.busy = true → (Target.reg r).lockedWhileBusy = false) :
    (r = .ctrl ∧ w.getLsbD 0 = true) ∨
      HostEffect s (.write r.offset w 0b1111) { s.writeReg w r with response := resp } := by
  have idle : (Target.reg r).lockedWhileBusy = true → s.status.busy = false := fun lock => by
    by_contra busy
    simp [hfree (by simpa using busy)] at lock
  cases r with
  | id | status | result | genDeg => cases hro
  | irqEn => exact .inr (.irqEn w resp)
  | cmd => exact .inr (.accept w resp (idle rfl))
  | argT => exact .inr (.arg .argT w resp (idle rfl))
  | argD => exact .inr (.arg .argD w resp (idle rfl))
  | argB => exact .inr (.arg .argB w resp (idle rfl))
  | argK => exact .inr (.arg .argK w resp (idle rfl))
  | argOff => exact .inr (.arg .argOff w resp (idle rfl))
  | ctrl =>
    cases h0 : w.getLsbD 0 with
    | true => exact .inl ⟨rfl, rfl⟩
    | false =>
      right
      rw [State.writeReg]
      cases h1 : w.getLsbD 1 with
      | true => rw [s.writeCtrl_clear h0 h1]; exact .clear w resp h1
      | false => rw [s.writeCtrl_none h0 h1]; exact .nothing _ w _ resp

/-- A write that the host may make: a register's, or an IN_MEM word's of an idle block. -/
theorem hostEffect_writeTarget {addr : BitVec 16} (w : Word) {strb : BitVec 4} {s : State} (resp : Option Response)
    (ha : aligned addr = true) (hro : (targetOf addr).readOnly = false)
    (hstrb : (targetOf addr).strobeOk strb = true)
    (hfree : s.status.busy = true → (targetOf addr).lockedWhileBusy = false) :
    (addr = 0x0008 ∧ strb = 0b1111 ∧ w.getLsbD 0 = true) ∨
      HostEffect s (.write addr w strb) { s.writeTarget w strb (targetOf addr) with response := resp } := by
  cases ht : targetOf addr with
  | unmapped => rw [ht] at hro; cases hro
  | reg r =>
    rw [ht] at hro hstrb hfree
    obtain rfl : strb = 0b1111 := by simpa [Target.strobeOk] using hstrb
    obtain rfl := targetOf_eq_reg.mp ht
    rcases hostEffect_writeReg w resp hro hfree with ⟨rfl, h0⟩ | h
    · exact .inl ⟨rfl, rfl, h0⟩
    · exact .inr h
  | word sp i =>
    rw [ht] at hro hfree
    obtain rfl : sp = .inMem := by
      cases sp with
      | inMem => rfl
      | outMem | genMem | ecMem => cases hro
    obtain ⟨word, inside⟩ := targetOf_word ht
    have mod := aligned_iff.mp ha
    simp only [Space.base, Space.size, Config.bufBytes] at word inside
    have idle : s.status.busy = false := by
      by_contra busy
      cases hfree (by simpa using busy)
    right
    rw [State.writeTarget, State.writeLanes_eq]
    exact .lanes addr w strb resp i idle word.symm (by omega)

/-- Every result of a write transaction, the busy rule's by the writes it holds back (20_memory.md R67). -/
theorem busWrite_outcomes (addr : BitVec 16) (w : Word) (strb : BitVec 4) (s : State) :
    busWrite addr w strb s = (s, .busErr) ∨
    (s.status.busy = true ∧ LockedWrite addr strb ∧
      busWrite addr w strb s = ({ s with status := s.status.accessRefused }, .busErr)) ∨
    (aligned addr = true ∧ (targetOf addr).readOnly = false ∧ (targetOf addr).strobeOk strb = true ∧
      (s.status.busy = true → (targetOf addr).lockedWhileBusy = false) ∧
      busWrite addr w strb s = (s.writeTarget w strb (targetOf addr), .ok)) := by
  cases ha : aligned addr with
  | false => exact .inl (busWrite_of_misaligned w s ha)
  | true =>
    cases hstrb : (targetOf addr).strobeOk strb with
    | false => exact .inl (busWrite_of_strobes w s hstrb)
    | true =>
      rcases busWrite_cases addr w strb s with h | ⟨busy, lock, h⟩ | ⟨-, hro, -, hfree, h⟩
      · exact .inl h
      · exact .inr (.inl ⟨busy, lockedWrite_iff.mpr ⟨ha, lock, hstrb⟩, h⟩)
      · exact .inr (.inr ⟨rfl, hro, rfl, hfree, h⟩)

/-- Everything one input of the host can do: give the reset input a level, reset the registers through CTRL, or one of
the effects above. -/
theorem perform_cases (s : State) (i : Input) :
    (∃ level, i = .rst level ∧ s.perform i = s.setRst level) ∨
    (∃ w, i = .write 0x0008 w 0b1111 ∧ w.getLsbD 0 = true ∧
      s.perform i = { s.softReset with response := some (.write .ok) }) ∨
    HostEffect s i (s.perform i) := by
  cases i with
  | rst level => exact .inl ⟨level, rfl, rfl⟩
  | read addr => exact .inr (.inr (.read addr))
  | waitIdle =>
    refine .inr (.inr ?_)
    rw [State.perform, State.doWait]
    split
    · exact .wait _ (.inr rfl)
    · exact .wait _ (.inl rfl)
  | write addr w strb =>
    right
    rw [State.perform, State.doWrite]
    rcases busWrite_outcomes addr w strb s with h | ⟨busy, locked, h⟩ | ⟨ha, hro, hstrb, hfree, h⟩
    · rw [h]; exact .inr (.nothing addr w strb _)
    · rw [h]; exact .inr (.busyRefused addr w strb _ busy locked)
    · rcases hostEffect_writeTarget w _ ha hro hstrb hfree with ⟨rfl, rfl, h0⟩ | heff
      · have reset : busWrite 0x0008 w 0b1111 s = (s.softReset, .ok) := busWrite_ctrl_softReset s h0
        exact .inl ⟨w, rfl, h0, by rw [reset]⟩
      · rw [h]; exact .inr heff

/-! ### The effects of one step -/

theorem step_of_engineTurn {s : State} (h : s.engineTurn = true) : step s = complete s := if_pos h

theorem step_of_no_turn {s : State} (h : s.engineTurn = false) : step s = hostStep s :=
  if_neg (by rw [h]; exact Bool.false_ne_true)

theorem engineTurn_eq_true {s : State} :
    s.engineTurn = true ↔ s.status.busy = true ∧ (s.wait = 0 ∨ s.inputs = []) := by
  simp [State.engineTurn]

/-- The host's step with an input that is no transaction under reset. -/
theorem step_of_input {s : State} {i : Input} {rest : List Input} (hturn : s.engineTurn = false)
    (hin : s.inputs = i :: rest) (hrst : s.rst = true → i.isTransaction = false) :
    step s = .next ((s.takeInput rest).perform i) := by
  have allowed : (s.rst && i.isTransaction) = false := by
    rw [Bool.and_eq_false_imp]; exact hrst
  rw [step_of_no_turn hturn, hostStep, hin]
  exact if_neg (by rw [allowed]; exact Bool.false_ne_true)

/-- A completion ends in an abort, or in the success of the command that CMD holds. -/
theorem complete_outcomes (s : State) :
    (∃ c, c ≠ .none ∧ complete s = .next (s.abort c)) ∨
    (∃ i, decode s.cmd = .command i ∧ firstError (commandChecks s i) = none ∧
      complete s = .next (commandDone s i)) := by
  unfold complete
  split
  next i hi =>
    obtain ⟨t, ht⟩ := exec_next i s
    rcases exec_outcomes ht with ⟨c, hc, -, rfl⟩ | ⟨pass, rfl⟩
    · exact .inl ⟨c, hc, ht⟩
    · exact .inr ⟨i, hi, pass, ht⟩
  next => exact .inl ⟨.illegalCmd, nofun, rfl⟩

/-- Everything one step can do. -/
theorem step_outcomes {s t : State} (h : step s = .next t) :
    (s.engineTurn = true ∧ ∃ c, c ≠ .none ∧ t = s.abort c) ∨
    (s.engineTurn = true ∧ ∃ i, decode s.cmd = .command i ∧ firstError (commandChecks s i) = none ∧
      t = commandDone s i) ∨
    (s.engineTurn = false ∧ s.inputs = [] ∧ t = s) ∨
    (s.engineTurn = false ∧ ∃ i rest, s.inputs = i :: rest ∧ (s.rst = true → i.isTransaction = false) ∧
      t = (s.takeInput rest).perform i) := by
  cases turn : s.engineTurn with
  | true =>
    rw [step_of_engineTurn turn] at h
    rcases complete_outcomes s with ⟨c, hc, ht⟩ | ⟨i, hi, pass, ht⟩
    · exact .inl ⟨rfl, c, hc, Host.Outcome.next.inj (h.symm.trans ht)⟩
    · exact .inr (.inl ⟨rfl, i, hi, pass, Host.Outcome.next.inj (h.symm.trans ht)⟩)
  | false =>
    rcases step_cases h with ⟨turn', -⟩ | ⟨turn', -⟩ | ⟨-, idle⟩ | ⟨-, host⟩
    · simp [turn] at turn'
    · simp [turn] at turn'
    · exact .inr (.inr (.inl ⟨rfl, idle⟩))
    · exact .inr (.inr (.inr ⟨rfl, host⟩))

/-! ### The reset input -/

theorem State.setRst_cases (s : State) (level : Bool) :
    (level = false ∧ s.rst = false ∧ s.setRst level = s) ∨
    s.setRst level = ({ s with mem := [], rst := level, epoch := s.epoch + 1 } : State).resetRegisters := by
  by_cases h : level = true ∨ s.rst = true
  · exact .inr (State.setRst_eq_resetRegisters h)
  · simp only [not_or, Bool.not_eq_true] at h
    obtain ⟨rfl, hrst⟩ := h
    exact .inl ⟨rfl, hrst, by simp [State.setRst, hrst]⟩

@[simp] theorem State.setRst_rst (s : State) (level : Bool) : (s.setRst level).rst = level := by
  rcases s.setRst_cases level with ⟨rfl, hrst, h⟩ | h <;> rw [h]
  · exact hrst
  · rfl

@[simp] theorem State.setRst_inputs (s : State) (level : Bool) : (s.setRst level).inputs = s.inputs := by
  rcases s.setRst_cases level with ⟨-, -, h⟩ | h <;> rw [h]
  rfl

/-! ### The invariant -/

theorem State.resetRegisters_inv {s : State} (hwf : Memory.wf s.mem) (hmapped : Memory.mapped s.mem) :
    s.resetRegisters.Inv :=
  ⟨hwf, hmapped, ⟨nofun, nofun, fun h => absurd rfl h, nofun⟩, fun _ => rfl⟩

theorem Space.window (sp : Space) : 0x1000 ≤ sp.base ∧ sp.base + sp.size ≤ 0x3200 := by
  cases sp <;> decide

theorem errStatus_consistent (st : Status) {c : ErrCode} (hc : c ≠ .none) : (errStatus st c).consistent :=
  ⟨nofun, nofun, fun _ => rfl, fun _ => hc⟩

theorem doneStatus_consistent (st : Status) : (doneStatus st).consistent :=
  ⟨nofun, nofun, fun h => absurd rfl h, nofun⟩

theorem Status.accepted_consistent (st : Status) : st.accepted.consistent :=
  ⟨nofun, fun _ => ⟨rfl, rfl⟩, fun h => absurd rfl h, nofun⟩

theorem Status.cleared_consistent (st : Status) : st.cleared.consistent :=
  ⟨nofun, fun _ => ⟨rfl, rfl⟩, fun h => absurd rfl h, nofun⟩

theorem State.abort_inv {s : State} (h : s.Inv) {c : ErrCode} (hc : c ≠ .none) : (s.abort c).Inv := by
  obtain ⟨hwf, hmapped, -, -⟩ := h
  exact ⟨hwf, hmapped, errStatus_consistent s.status hc, fun _ => rfl⟩

theorem commandDone_inv {s : State} {i : Instr} (h : s.Inv) (pass : firstError (commandChecks s i) = none) :
    (commandDone s i).Inv := by
  obtain ⟨hwf, hmapped, -, -⟩ := h
  obtain ⟨lo, hi⟩ := (commandOutput s i).1.window
  have fits := (commandOutput_length_le pass).1
  exact ⟨Memory.storeBytes_wf _ _ hwf, Memory.storeBytes_mapped _ hmapped ⟨lo, by omega⟩,
    doneStatus_consistent s.status, fun _ => rfl⟩

/-- An input keeps the invariant, where it does not come as a transaction under reset. -/
theorem HostEffect.inv {s t : State} {i : Input} (heff : HostEffect s i t) (h : s.Inv)
    (hrst : s.rst = true → i.isTransaction = false) : t.Inv := by
  have ⟨hwf, hmapped, hst, hpend⟩ := h
  cases heff with
  | busyRefused => exact ⟨hwf, hmapped, hst, hpend⟩
  | clear => exact ⟨hwf, hmapped, s.status.cleared_consistent, hpend⟩
  | accept => exact ⟨hwf, hmapped, s.status.accepted_consistent, fun asserted => nomatch hrst asserted⟩
  | lanes addr w strb r k _ _ inside =>
    have bounds : 0x1000 ≤ Space.inMem.base + k ∧ Space.inMem.base + k + 4 ≤ 0x3200 := by
      simp only [Space.base]; omega
    exact ⟨State.writeLanes_wf _ _ _ _ hwf, State.writeLanes_mapped _ _ _ _ hmapped bounds, hst, hpend⟩
  | read | wait | nothing | irqEn | arg => exact h

theorem perform_inv {s : State} {i : Input} (h : s.Inv) (hrst : s.rst = true → i.isTransaction = false) :
    (s.perform i).Inv := by
  have ⟨hwf, hmapped, _, _⟩ := h
  rcases perform_cases s i with ⟨level, -, ht⟩ | ⟨w, -, -, ht⟩ | heff
  · rcases s.setRst_cases level with ⟨-, -, hkeep⟩ | hreset
    · rw [ht, hkeep]; exact h
    · rw [ht, hreset]; exact State.resetRegisters_inv reset_mem_wf.1 reset_mem_wf.2
  · rw [ht]; exact State.resetRegisters_inv hwf hmapped
  · exact heff.inv h hrst

/-- Settles O55: the engine's two outcomes and the effects of the host's inputs each keep the invariant. -/
theorem stepKeepsInvariant : Obligations.StepKeepsInvariant := by
  unfold Obligations.StepKeepsInvariant
  intro s t h hstep
  rcases step_outcomes hstep with ⟨-, c, hc, rfl⟩ | ⟨-, i, -, pass, rfl⟩ | ⟨-, -, rfl⟩ | ⟨-, i, rest, -, hrst, rfl⟩
  · exact State.abort_inv h hc
  · exact commandDone_inv h pass
  · exact h
  · exact perform_inv (s := s.takeInput rest) h hrst

/-! ### The machine never stops -/

theorem hostRespectsReset_cons {rst : Bool} {i : Input} {rest : List Input}
    (h : hostRespectsReset rst (i :: rest) = true) :
    (∃ level, i = .rst level ∧ hostRespectsReset level rest = true) ∨
      (rst = false ∧ hostRespectsReset rst rest = true) := by
  cases i with
  | rst level => exact .inl ⟨level, rfl, h⟩
  | read | write | waitIdle =>
    simp only [hostRespectsReset, Bool.and_eq_true, Bool.not_eq_true'] at h
    exact .inr h

/-- The host of a respectful state stays respectful through an effect: an input is taken, or WAIT stays. -/
theorem HostEffect.respects {s t : State} {i : Input} (heff : HostEffect s i t) (hrst : s.rst = false)
    (h : hostRespectsReset s.rst s.inputs = true) : hostRespectsReset t.rst t.inputs = true := by
  cases heff with
  | wait inputs hin =>
    rcases hin with rfl | rfl
    · exact h
    · show (!s.rst && hostRespectsReset s.rst s.inputs) = true
      rw [h, hrst]; rfl
  | _ => exact h

theorem perform_respects {s : State} {i : Input} {rest : List Input}
    (h : hostRespectsReset s.rst (i :: rest) = true) :
    hostRespectsReset ((s.takeInput rest).perform i).rst ((s.takeInput rest).perform i).inputs = true := by
  rcases hostRespectsReset_cons h with ⟨level, rfl, hrest⟩ | ⟨hrst, hrest⟩
  · rw [State.perform, State.setRst_rst, State.setRst_inputs]; exact hrest
  rcases perform_cases (s.takeInput rest) i with ⟨level, rfl, -⟩ | ⟨w, -, -, ht⟩ | heff
  · rw [State.perform, State.setRst_rst, State.setRst_inputs]; exact h
  · rw [ht]; exact hrest
  · exact heff.respects hrst hrest

/-- A respectful state steps to a respectful state. -/
theorem step_respects {s : State} (h : hostRespectsReset s.rst s.inputs = true) :
    ∃ t, step s = .next t ∧ hostRespectsReset t.rst t.inputs = true := by
  cases turn : s.engineTurn with
  | true =>
    rw [step_of_engineTurn turn]
    rcases complete_outcomes s with ⟨c, -, ht⟩ | ⟨i, -, -, ht⟩ <;> exact ⟨_, ht, h⟩
  | false =>
    cases hin : s.inputs with
    | nil => exact ⟨s, by rw [step_of_no_turn turn, hostStep, hin], h⟩
    | cons i rest =>
      rw [hin] at h
      refine ⟨_, step_of_input turn hin fun asserted => ?_, perform_respects h⟩
      rcases hostRespectsReset_cons h with ⟨level, rfl, -⟩ | ⟨hrst, -⟩
      · rfl
      · simp [hrst] at asserted

theorem run_succ_of_step {s u : State} (k : Nat) (h : step s = .next u) :
    Host.Core.run Sys2Proof.core (k + 1) s = Host.Core.run Sys2Proof.core k u := by
  have h' : Sys2Proof.core.step s = .next u := h
  simp only [Host.Core.run, h']

theorem safeRun_of_respects (k : Nat) {s : State} (h : hostRespectsReset s.rst s.inputs = true) : SafeRun k s := by
  induction k generalizing s with
  | zero => exact ⟨s, rfl⟩
  | succ k ih =>
    obtain ⟨u, hstep, hu⟩ := step_respects h
    obtain ⟨t, ht⟩ := ih hu
    exact ⟨t, (run_succ_of_step k hstep).trans ht⟩

/-- Settles O58: a respectful state steps to a respectful state, and a run is such steps. -/
theorem respectfulHostNeverStopsMachine : Obligations.RespectfulHostNeverStopsMachine := by
  unfold Obligations.RespectfulHostNeverStopsMachine
  exact ⟨fun _ => step_respects, fun k _ => safeRun_of_respects k⟩

end Sys2Proof.Machine
end

section
/-! PROOFS. The schedule of a step, the command that stays pending, the bound on its completion, and the writers of the
memories and the registers (10_state.md section 9), from the lists of effects. -/

namespace Sys2Proof.Machine

/-! ### The schedule -/

/-- Settles O53: the engine's turn is the completion, and the two decoders read the same word. -/
theorem stepRunsDecodedCommand : Obligations.StepRunsDecodedCommand := by
  unfold Obligations.StepRunsDecodedCommand
  refine ⟨fun s busy hfree => ?_, fun s nbits w i hdec => ?_⟩
  · rw [step_of_engineTurn (engineTurn_eq_true.mpr ⟨busy, hfree⟩)]
    refine ⟨fun i hi => complete_of_decode hi, fun why hwhy => ?_⟩
    simp only [complete, hwhy, State.abort_eq_errStatus]
  · have decoded : decode (s.withFetchWord nbits w).cmd = .command i := by
      show decode (tableWord nbits w) = .command i
      unfold decodeTableWord at hdec
      split at hdec
      · split at hdec
        next j hj => exact hj.trans (congrArg Decoded.command (Option.some.inj hdec))
        next => cases hdec
      · cases hdec
    rw [step_of_engineTurn (s := s.withFetchWord nbits w) rfl, complete_of_decode decoded]

/-- Settles O54: an input's effect is that of the bus, and the host moves whenever the engine does not. -/
theorem stepPerformsNextInput : Obligations.StepPerformsNextInput := by
  unfold Obligations.StepPerformsNextInput
  refine ⟨fun s addr w strb => ⟨rfl, rfl, ?_, fun _ => rfl⟩, fun s hwait => ?_⟩
  · rw [State.perform, State.doWait]
    split <;> rfl
  · have turn : s.engineTurn = false := by
      rw [← Bool.not_eq_true, engineTurn_eq_true]
      rintro ⟨busy, hwait0 | hin⟩
      · exact (hwait busy).1 hwait0
      · exact (hwait busy).2 hin
    refine ⟨fun hin => ?_, fun i rest hin hrst => step_of_input turn hin hrst, fun i rest hin hrst htrans => ?_⟩
    · rw [step_of_no_turn turn, hostStep, hin]
    · rw [step_of_no_turn turn, hostStep, hin]
      exact if_pos (by rw [hrst, htrans]; rfl)

/-! ### A command that stays pending -/

/-- An input that leaves a command pending changes no operand, no memory byte and not the wait: its writes are refused
or go to CTRL and IRQ_EN. -/
theorem perform_while_busy {s : State} {i : Input} (busy : s.status.busy = true)
    (busy' : (s.perform i).status.busy = true) :
    ∃ st e ins r d, s.perform i =
      { s with status := st, irqEn := e, inputs := ins, response := r, draws := d } := by
  rcases perform_cases s i with ⟨level, -, ht⟩ | ⟨w, -, -, ht⟩ | heff
  · rcases s.setRst_cases level with ⟨-, -, hkeep⟩ | hreset
    · exact ⟨s.status, s.irqEn, s.inputs, s.response, s.draws, ht.trans hkeep⟩
    · rw [ht, hreset] at busy'; cases busy'
  · rw [ht] at busy'; cases busy'
  · generalize s.perform i = t at heff
    cases heff with
    | read | wait | nothing | busyRefused | clear | irqEn => exact ⟨_, _, _, _, _, rfl⟩
    | accept _ _ idle | arg _ _ _ idle | lanes _ _ _ _ _ idle => simp [busy] at idle

theorem State.SameOperands.trans {s t u : State} (h : s.SameOperands t) (h' : t.SameOperands u) :
    s.SameOperands u := by
  obtain ⟨cmd, argT, argD, argB, argK, argOff, bytes⟩ := h
  obtain ⟨cmd', argT', argD', argB', argK', argOff', bytes'⟩ := h'
  exact ⟨cmd'.trans cmd, argT'.trans argT, argD'.trans argD, argB'.trans argB, argK'.trans argK,
    argOff'.trans argOff, fun i hi => (bytes' i hi).trans (bytes i hi)⟩

theorem State.SameOperands.refl (s : State) : s.SameOperands s :=
  ⟨rfl, rfl, rfl, rfl, rfl, rfl, fun _ _ => rfl⟩

theorem sameOperands_of_step {s t : State} (busy : s.status.busy = true) (h : step s = .next t)
    (busy' : t.status.busy = true) : s.SameOperands t := by
  rcases step_outcomes h with ⟨-, c, -, rfl⟩ | ⟨-, i, -, -, rfl⟩ | ⟨-, -, rfl⟩ | ⟨-, i, rest, -, -, rfl⟩
  · cases busy'
  · cases busy'
  · exact .refl t
  · obtain ⟨st, e, ins, r, d, ht⟩ := perform_while_busy (s := s.takeInput rest) busy busy'
    rw [ht]
    exact ⟨rfl, rfl, rfl, rfl, rfl, rfl, fun _ _ => rfl⟩

theorem exists_step_of_run_succ {k : Nat} {s t : State} (h : Host.Core.run Sys2Proof.core (k + 1) s = .next t) :
    ∃ u, step s = .next u ∧ Host.Core.run Sys2Proof.core k u = .next t := by
  cases hstep : step s with
  | next u => exact ⟨u, rfl, (run_succ_of_step k hstep).symm.trans h⟩
  | fault r =>
    have hstep' : Sys2Proof.core.step s = .fault r := hstep
    simp [Host.Core.run, hstep'] at h
  | refused r =>
    have hstep' : Sys2Proof.core.step s = .refused r := hstep
    simp [Host.Core.run, hstep'] at h

theorem sameOperands_of_run {k : Nat} {s t : State}
    (busy : ∀ j u, j ≤ k → Host.Core.run Sys2Proof.core j s = .next u → u.status.busy = true)
    (h : Host.Core.run Sys2Proof.core k s = .next t) : s.SameOperands t := by
  induction k generalizing s with
  | zero => obtain rfl : s = t := Host.Outcome.next.inj h; exact .refl s
  | succ k ih =>
    obtain ⟨u, hstep, hrun⟩ := exists_step_of_run_succ h
    have first : u.status.busy = true := busy 1 u (by omega) (run_succ_of_step 0 hstep)
    have later := ih (fun j v hj hv => busy (j + 1) v (by omega) ((run_succ_of_step j hstep).trans hv)) hrun
    exact (sameOperands_of_step (busy 0 s (by omega) rfl) hstep first).trans later

/-- Settles O56: one step is `sameOperands_of_step`, a run is steps. -/
theorem operandsStableWhilePending : Obligations.OperandsStableWhilePending := by
  unfold Obligations.OperandsStableWhilePending
  exact ⟨fun _ _ => sameOperands_of_step, fun _ _ _ _ => sameOperands_of_run⟩

theorem complete_not_busy (s : State) : ∃ t, complete s = .next t ∧ t.status.busy = false := by
  rcases complete_outcomes s with ⟨c, -, ht⟩ | ⟨i, -, -, ht⟩ <;> exact ⟨_, ht, rfl⟩

/-- By induction on the wait: each input that leaves the command pending takes one from it. -/
theorem exists_run_to_idle {n : Nat} {s : State} (hwait : s.wait = n) (busy : s.status.busy = true)
    (hrst : s.rst = false) :
    ∃ k t, k ≤ n + 1 ∧ Host.Core.run Sys2Proof.core k s = .next t ∧ t.status.busy = false := by
  induction n generalizing s with
  | zero =>
    obtain ⟨t, ht, idle⟩ := complete_not_busy s
    have turn := engineTurn_eq_true.mpr ⟨busy, .inl hwait⟩
    exact ⟨1, t, le_rfl, run_succ_of_step 0 ((step_of_engineTurn turn).trans ht), idle⟩
  | succ n ih =>
    cases hin : s.inputs with
    | nil =>
      obtain ⟨t, ht, idle⟩ := complete_not_busy s
      have turn := engineTurn_eq_true.mpr ⟨busy, .inr hin⟩
      exact ⟨1, t, by omega, run_succ_of_step 0 ((step_of_engineTurn turn).trans ht), idle⟩
    | cons i rest =>
      have turn : s.engineTurn = false := by
        rw [← Bool.not_eq_true, engineTurn_eq_true]; simp [hwait, hin]
      have hstep := step_of_input turn hin fun asserted => by simp [hrst] at asserted
      by_cases busy' : ((s.takeInput rest).perform i).status.busy = true
      · obtain ⟨st, e, ins, r, d, ht⟩ := perform_while_busy (s := s.takeInput rest) busy busy'
        obtain ⟨k, t, hk, hrun, idle⟩ := ih (s := (s.takeInput rest).perform i)
          (by rw [ht, State.takeInput_wait, hwait]; rfl) busy' (by rw [ht]; exact hrst)
        exact ⟨k + 1, t, by omega, (run_succ_of_step k hstep).trans hrun, idle⟩
      · exact ⟨1, _, by omega, run_succ_of_step 0 hstep, by simpa using busy'⟩

/-- Settles O57, by induction on the wait (`exists_run_to_idle`). -/
theorem pendingCommandEnds : Obligations.PendingCommandEnds := by
  unfold Obligations.PendingCommandEnds
  exact fun s busy hrst => exists_run_to_idle rfl busy hrst

/-! ### The writers of the memories -/

/-- The only effect on a byte is the write of its IN_MEM word. -/
theorem HostEffect.changes_byte {s t : State} {i : Input} {a : Nat} (heff : HostEffect s i t)
    (hne : t.byteAtAddr a ≠ s.byteAtAddr a) :
    s.status.busy = false ∧ 0x1000 ≤ a ∧ a < 0x2000 ∧
      ∃ addr w strb, i = .write addr w strb ∧ a - 3 ≤ addr.toNat ∧ addr.toNat < a + 1 := by
  cases heff with
  | lanes addr w strb r k idle word inside =>
    have near : ¬(a < Space.inMem.base + k ∨ Space.inMem.base + k + 4 ≤ a) := fun out => by
      have kept := State.byteAtAddr_writeLanes_outside s .inMem k w strb out
      rw [State.writeLanes_eq] at kept
      exact hne kept
    simp only [Space.base] at near
    exact ⟨idle, by omega, by omega, addr, w, strb, rfl, by omega, by omega⟩
  | _ => exact absurd rfl hne

/-- Settles O59: an abort changes no byte, a success is `commandDone_changes_byte`, and of the host's inputs a level of
the reset input or `HostEffect.changes_byte`; the soft reset keeps the memories. -/
theorem onlyWritersChangeMemories : Obligations.OnlyWritersChangeMemories := by
  unfold Obligations.OnlyWritersChangeMemories
  intro s t a hstep hne
  rcases step_outcomes hstep with ⟨-, c, -, rfl⟩ | ⟨turn, i, hi, pass, rfl⟩ | ⟨-, -, rfl⟩ | ⟨turn, i, rest, hin, -, rfl⟩
  · exact absurd rfl hne
  · refine .inr (.inl ⟨turn, rfl, ?_⟩)
    rcases commandDone_changes_byte pass hne with ⟨rfl, h⟩ | ⟨⟨n, rfl⟩, h⟩ | ⟨rfl, h⟩
    · exact .inl ⟨hi, h⟩
    · exact .inr (.inl ⟨⟨n, hi⟩, h⟩)
    · exact .inr (.inr ⟨hi, h⟩)
  · exact absurd rfl hne
  · have head : s.inputs.head? = some i := by rw [hin]; rfl
    rcases perform_cases (s.takeInput rest) i with ⟨level, rfl, -⟩ | ⟨w, -, -, ht⟩ | heff
    · exact .inr (.inr ⟨turn, level, head⟩)
    · rw [ht] at hne; exact absurd rfl hne
    · obtain ⟨idle, lo, hi, addr, w, strb, rfl, near⟩ := heff.changes_byte hne
      exact .inl ⟨turn, idle, lo, hi, addr, w, strb, head, near⟩

/-! ### The writers of the registers -/

/-- A step that is no reset: an abort, a success, no change, or an effect of the host's next input. -/
theorem step_outcomes_no_reset {s t : State} (h : step s = .next t)
    (hn : ¬(s.engineTurn = false ∧ s.nextInputResets)) :
    (s.engineTurn = true ∧ ∃ c, c ≠ .none ∧ t = s.abort c) ∨
    (s.engineTurn = true ∧ ∃ i, decode s.cmd = .command i ∧ t = commandDone s i) ∨
    t = s ∨
    (s.engineTurn = false ∧ ∃ i rest, s.inputs.head? = some i ∧ HostEffect (s.takeInput rest) i t) := by
  rcases step_outcomes h with habort | ⟨turn, i, hi, -, ht⟩ | ⟨-, -, ht⟩ | ⟨turn, i, rest, hin, -, rfl⟩
  · exact .inl habort
  · exact .inr (.inl ⟨turn, i, hi, ht⟩)
  · exact .inr (.inr (.inl ht))
  · have head : s.inputs.head? = some i := by rw [hin]; rfl
    rcases perform_cases (s.takeInput rest) i with ⟨level, rfl, -⟩ | ⟨w, rfl, h0, -⟩ | heff
    · exact absurd ⟨turn, .inl ⟨level, head⟩⟩ hn
    · exact absurd ⟨turn, .inr ⟨w, head, h0⟩⟩ hn
    · exact .inr (.inr (.inr ⟨turn, i, rest, head, heff⟩))

theorem busy_of_engineTurn {s : State} (turn : s.engineTurn = true) : s.status.busy = true :=
  (engineTurn_eq_true.mp turn).1

/-- While a command is pending the invariant holds DONE, ERR and ERRCODE clear. -/
theorem State.Inv.pending_clear {s : State} (h : s.Inv) (busy : s.status.busy = true) :
    s.status.done = false ∧ s.status.err = false ∧ s.status.errcode = .none := by
  obtain ⟨-, -, ⟨-, hbusy, herr⟩, -⟩ := h
  obtain ⟨done, err⟩ := hbusy busy
  exact ⟨done, err, not_not.mp fun hc => by simp [herr.mp hc] at err⟩

section

variable {s t : State} (h : step s = .next t) (hn : ¬(s.engineTurn = false ∧ s.nextInputResets))

include h hn

theorem busy_writers (hne : t.status.busy ≠ s.status.busy) :
    s.engineTurn = true ∧ t.status.busy = false ∨
      s.engineTurn = false ∧ s.nextInputAccepts ∧ t.status.busy = true := by
  rcases step_outcomes_no_reset h hn with ⟨turn, c, -, rfl⟩ | ⟨turn, i, -, rfl⟩ | rfl | ⟨turn, i, rest, head, heff⟩
  · exact .inl ⟨turn, rfl⟩
  · exact .inl ⟨turn, rfl⟩
  · exact absurd rfl hne
  · cases heff with
    | accept w r idle => exact .inr ⟨turn, ⟨idle, w, head⟩, rfl⟩
    | _ => exact absurd rfl hne

theorem done_writers (hinv : s.Inv) (hne : t.status.done ≠ s.status.done) :
    s.engineTurn = true ∧ t.status.done = true ∧ t.status.err = false ∨
      s.engineTurn = false ∧ (s.nextInputAccepts ∨ s.nextInputClears) ∧ t.status.done = false := by
  rcases step_outcomes_no_reset h hn with ⟨turn, c, -, rfl⟩ | ⟨turn, i, -, rfl⟩ | rfl | ⟨turn, i, rest, head, heff⟩
  · exact absurd (hinv.pending_clear (busy_of_engineTurn turn)).1.symm hne
  · exact .inl ⟨turn, rfl, rfl⟩
  · exact absurd rfl hne
  · cases heff with
    | accept w r idle => exact .inr ⟨turn, .inl ⟨idle, w, head⟩, rfl⟩
    | clear w r bit => exact .inr ⟨turn, .inr ⟨w, head, bit⟩, rfl⟩
    | _ => exact absurd rfl hne

theorem err_writers (hinv : s.Inv) (hne : t.status.err ≠ s.status.err ∨ t.status.errcode ≠ s.status.errcode) :
    s.engineTurn = true ∧ t.status.err = true ∧ t.status.errcode ≠ .none ∨
      s.engineTurn = false ∧ (s.nextInputAccepts ∨ s.nextInputClears) ∧ t.status.err = false ∧
        t.status.errcode = .none := by
  rcases step_outcomes_no_reset h hn with ⟨turn, c, hc, rfl⟩ | ⟨turn, i, -, rfl⟩ | rfl | ⟨turn, i, rest, head, heff⟩
  · exact .inl ⟨turn, rfl, hc⟩
  · obtain ⟨-, err, errcode⟩ := hinv.pending_clear (busy_of_engineTurn turn)
    rcases hne with hne | hne
    · exact absurd err.symm hne
    · exact absurd errcode.symm hne
  · rcases hne with hne | hne <;> exact absurd rfl hne
  · cases heff with
    | accept w r idle => exact .inr ⟨turn, .inl ⟨idle, w, head⟩, rfl, rfl⟩
    | clear w r bit => exact .inr ⟨turn, .inr ⟨w, head, bit⟩, rfl, rfl⟩
    | _ => rcases hne with hne | hne <;> exact absurd rfl hne

/-- A field that the engine leaves alone changes only by an effect of the host's next input. -/
theorem hostEffect_of_change {α : Type} (f : State → α) (habort : ∀ c, f (s.abort c) = f s)
    (hdone : ∀ i, f (commandDone s i) = f s) (hne : f t ≠ f s) :
    s.engineTurn = false ∧ ∃ i rest, s.inputs.head? = some i ∧ HostEffect (s.takeInput rest) i t := by
  rcases step_outcomes_no_reset h hn with ⟨-, c, -, rfl⟩ | ⟨-, i, -, rfl⟩ | rfl | host
  · exact absurd (habort c) hne
  · exact absurd (hdone i) hne
  · exact absurd rfl hne
  · exact host

/-- A field that aborts and the host leave alone changes only by a command that succeeds. -/
theorem success_of_change {α : Type} (f : State → α) (habort : ∀ c, f (s.abort c) = f s)
    (hhost : ∀ i rest, HostEffect (s.takeInput rest) i t → f t = f s) (hne : f t ≠ f s) :
    s.engineTurn = true ∧ ∃ i, decode s.cmd = .command i ∧ t = commandDone s i := by
  rcases step_outcomes_no_reset h hn with ⟨-, c, -, rfl⟩ | success | rfl | ⟨-, i, rest, -, heff⟩
  · exact absurd (habort c) hne
  · exact success
  · exact absurd rfl hne
  · exact absurd (hhost i rest heff) hne

theorem accessErr_writers (hne : t.status.accessErr ≠ s.status.accessErr) :
    s.engineTurn = false ∧ (s.nextInputRefused ∧ t.status.accessErr = true ∨
      s.nextInputClears ∧ t.status.accessErr = false) := by
  obtain ⟨turn, i, rest, head, heff⟩ :=
    hostEffect_of_change h hn (·.status.accessErr) (fun _ => rfl) (fun _ => rfl) hne
  cases heff with
  | busyRefused addr w strb r busy locked => exact ⟨turn, .inl ⟨⟨busy, addr, w, strb, head, locked⟩, rfl⟩⟩
  | clear w r bit => exact ⟨turn, .inr ⟨⟨w, head, bit⟩, rfl⟩⟩
  | _ => exact absurd rfl hne

theorem result_writers (hne : t.result ≠ s.result) :
    s.engineTurn = true ∧ t.status.done = true ∧ ∃ i, decode s.cmd = .command i ∧ i ≠ .nop := by
  obtain ⟨turn, i, hi, rfl⟩ :=
    success_of_change h hn State.result (fun _ => rfl) (fun _ _ heff => by cases heff <;> rfl) hne
  refine ⟨turn, rfl, i, hi, ?_⟩
  rintro rfl
  exact hne rfl

theorem genDeg_writers (hne : t.genDeg ≠ s.genDeg) :
    s.engineTurn = true ∧ t.status.done = true ∧ ∃ n, decode s.cmd = .command (.genPoly n) := by
  obtain ⟨turn, i, hi, rfl⟩ :=
    success_of_change h hn State.genDeg (fun _ => rfl) (fun _ _ heff => by cases heff <;> rfl) hne
  refine ⟨turn, rfl, by_contra fun hgen => hne (commandGenDeg_eq s ?_)⟩
  rintro n rfl
  exact hgen ⟨n, hi⟩

theorem cmd_writers (hne : t.cmd ≠ s.cmd) :
    s.engineTurn = false ∧ s.status.busy = false ∧ s.nextInputWrites 0x0010 0x0011 ∧ t.status.busy = true := by
  obtain ⟨turn, i, rest, head, heff⟩ := hostEffect_of_change h hn State.cmd (fun _ => rfl) (fun _ => rfl) hne
  cases heff with
  | accept w r idle => exact ⟨turn, idle, ⟨_, w, _, head, by decide, by decide⟩, rfl⟩
  | _ => exact absurd rfl hne

theorem irqEn_writers (hne : t.irqEn ≠ s.irqEn) :
    s.engineTurn = false ∧ s.nextInputWrites 0x000C 0x000D := by
  obtain ⟨turn, i, rest, head, heff⟩ := hostEffect_of_change h hn State.irqEn (fun _ => rfl) (fun _ => rfl) hne
  cases heff with
  | irqEn w r => exact ⟨turn, _, w, _, head, by decide, by decide⟩
  | _ => exact absurd rfl hne

/-- An ARG register changes only with an idle host write to its own address. -/
theorem arg_writers (hne : t.argT ≠ s.argT ∨ t.argD ≠ s.argD ∨ t.argB ≠ s.argB ∨ t.argK ≠ s.argK ∨
      t.argOff ≠ s.argOff) :
    s.engineTurn = false ∧ s.status.busy = false ∧
      (t.argT ≠ s.argT → s.nextInputWrites 0x0018 0x0019) ∧
      (t.argD ≠ s.argD → s.nextInputWrites 0x001C 0x001D) ∧
      (t.argB ≠ s.argB → s.nextInputWrites 0x0020 0x0021) ∧
      (t.argK ≠ s.argK → s.nextInputWrites 0x0024 0x0025) ∧
      (t.argOff ≠ s.argOff → s.nextInputWrites 0x0028 0x0029) := by
  have changed : (t.argT, t.argD, t.argB, t.argK, t.argOff) ≠ (s.argT, s.argD, s.argB, s.argK, s.argOff) := by
    simpa only [ne_eq, Prod.mk.injEq, not_and_or] using hne
  obtain ⟨turn, i, rest, head, heff⟩ := hostEffect_of_change h hn
    (fun u => (u.argT, u.argD, u.argB, u.argK, u.argOff)) (fun _ => rfl) (fun _ => rfl) changed
  cases heff with
  | arg q w r idle =>
    have written (p : Reg) {v x : Half} (hp : (if q = p then v else x) ≠ x) :
        s.nextInputWrites p.offset.toNat (p.offset.toNat + 1) := by
      obtain rfl : q = p := by_contra fun other => hp (if_neg other)
      exact ⟨_, w, _, head, le_rfl, Nat.lt_succ_self _⟩
    exact ⟨turn, idle, written .argT, written .argD, written .argB, written .argK, written .argOff⟩
  | _ => exact absurd rfl changed

end

/-- Settles O60: one lemma for each clause, from the list of what a step can do. -/
theorem onlyWritersChangeRegisters : Obligations.OnlyWritersChangeRegisters := by
  unfold Obligations.OnlyWritersChangeRegisters
  exact fun s t h hn => ⟨busy_writers h hn, done_writers h hn, err_writers h hn, accessErr_writers h hn,
    result_writers h hn, genDeg_writers h hn, cmd_writers h hn, arg_writers h hn, irqEn_writers h hn⟩

end Sys2Proof.Machine
end

section
/-! PROOFS. The outcome of each command that has checks or writes memory, from its ordered checks and the bytes of its
output (41_poly_rs.md R138, R139, R144, 42_interleave.md R166 to R169, 93_implementation_defined.md U14). -/

namespace Sys2Proof.Machine

/-! ### The bytes of an output -/

/-- The bytes a command wrote stand in their memory from byte 0 on. -/
theorem commandDone_byteAt {s : State} {i : Instr} {sp : Space} {bs : List Byte} {j : Nat} {b : Byte}
    (hout : commandOutput s i = (sp, bs)) (h : bs[j]? = some b) : (commandDone s i).byteAt sp j = b := by
  rw [commandDone, hout]
  exact byteAt_written (s.setGenDeg (commandGenDeg s i)) sp (commandResult s i) h

theorem commandDone_readBytes {s : State} {i : Instr} {sp : Space} {bs : List Byte}
    (hout : commandOutput s i = (sp, bs)) : (commandDone s i).readBytes sp 0 bs.length = bs := by
  refine List.ext_getElem? fun j => ?_
  by_cases hj : j < bs.length
  · rw [State.readBytes_getElem? _ _ _ _ _ hj, Nat.zero_add, List.getElem?_eq_getElem hj,
      commandDone_byteAt hout (List.getElem?_eq_getElem hj)]
  · rw [List.getElem?_eq_none (by simpa using hj), List.getElem?_eq_none (by simpa using hj)]

theorem natWord_toNat (v : Half) : natWord v.toNat = v.setWidth 32 := BitVec.ofNat_toNat 32 v

theorem toNat_ne_zero {v : Half} (h : v ≠ 0) : v.toNat ≠ 0 := fun h0 => h (BitVec.eq_of_toNat_eq h0)

/-! ### GEN_POLY, POLY_EVAL and RS_ENCODE -/

/-- Settles O28: the output of GEN_POLY is the generator, monic and with n + 1 coefficients. -/
theorem genPolyWritesGenerator : Obligations.GenPolyWritesGenerator := by
  unfold Obligations.GenPolyWritesGenerator
  refine ⟨illegalFrom_mbz 0x10, fun n s => ⟨commandDone s (.genPoly n), exec_of_pass rfl, rfl, ?_⟩⟩
  obtain ⟨low, hlen, hgen⟩ := exists_genPoly_eq n.toNat
  have len : (genPoly n.toNat).length = n.toNat + 1 := by rw [hgen, List.length_cons, hlen]
  refine ⟨commandDone_byteAt rfl (by rw [hgen]; rfl), fun i hi => ?_, fun a ha => ?_⟩
  · have coefficient := getElem?_eq_coef (p := genPoly n.toNat) (i := i) (by omega)
    rw [len, Nat.add_sub_cancel] at coefficient
    exact commandDone_byteAt rfl coefficient
  · refine commandDone_byteAtAddr_outside s _ ?_
    simp only [commandOutput, Space.base, len]
    omega

/-- The first check of POLY_EVAL that fails (41_poly_rs.md R139). -/
theorem firstError_polyEval (s : State) (x : Byte) :
    firstError (commandChecks s (.polyEval x)) =
      if s.argD.toNat = 0 then some .noDataBytes
      else if 4096 < s.argOff.toNat + s.argD.toNat then some .spanRange else none := by
  simp [commandChecks, spanCheck, Config.bufBytes, State.opD, State.opOff]

/-- The value at 0 of a span is its last byte. -/
theorem polyEval_readBytes_zero (s : State) (sp : Space) (off n : Nat) :
    polyEval (s.readBytes sp off (n + 1)) 0 = s.byteAt sp (off + n) := by
  rw [State.readBytes, List.range_succ, List.map_append, List.map_singleton, polyEval_concat, gfMul_zero_right,
    zero_gfAdd]

/-- Settles O29: the two checks in their order (`firstError_polyEval`), and otherwise the value of the span. -/
theorem polyEvalCommandEvaluates : Obligations.PolyEvalCommandEvaluates := by
  unfold Obligations.PolyEvalCommandEvaluates
  refine ⟨illegalFrom_mbz 0x11, fun x s => ?_⟩
  have pass (y : Byte) (hD : s.argD ≠ 0) (hspan : s.argOff.toNat + s.argD.toNat ≤ 4096) :
      firstError (commandChecks s (.polyEval y)) = none := by
    rw [firstError_polyEval, if_neg (toNat_ne_zero hD), if_neg (not_lt.mpr hspan)]
  refine ⟨fun hD => ?_, fun hD hspan => ?_, fun hD hspan => exec_of_pass (pass x hD hspan), fun hD hspan => ?_⟩
  · have zero : s.argD.toNat = 0 := congrArg BitVec.toNat hD
    exact exec_of_error (by rw [firstError_polyEval, if_pos zero])
  · exact exec_of_error (by rw [firstError_polyEval, if_neg (toNat_ne_zero hD), if_pos hspan])
  · refine ⟨_, exec_of_pass (pass 0 hD hspan), ?_⟩
    obtain ⟨n, hn⟩ := Nat.exists_eq_add_one_of_ne_zero (toNat_ne_zero hD)
    rw [commandDone_result, commandResult, State.opD, State.opOff, hn, polyEval_readBytes_zero]
    rfl

/-- The first check of RS_ENCODE that fails (41_poly_rs.md R144). -/
theorem firstError_rsEncode (s : State) :
    firstError (commandChecks s .rsEncode) =
      if s.argK.toNat = 0 then some .noEcBytes else if 255 < s.argK.toNat then some .ecRange
      else if s.argD.toNat = 0 then some .noDataBytes
      else if 4096 < s.argOff.toNat + s.argD.toNat then some .spanRange else none := by
  simp [commandChecks, rsEncodeChecks, spanCheck, Config.maxEc, Config.bufBytes, State.opK, State.opD, State.opOff]

/-- Settles O30: the four checks in their order (`firstError_rsEncode`), and otherwise the shift register's bytes
(`rsEc_eq_rsEcLfsr`). -/
theorem rsEncodeWritesEcBytes : Obligations.RsEncodeWritesEcBytes := by
  unfold Obligations.RsEncodeWritesEcBytes
  refine ⟨illegalFrom_mbz 0x20, fun s => ⟨fun hK => ?_, fun hK => ?_, fun hK hK' hD => ?_,
    fun hK hK' hD hspan => ?_, fun hK hK' hD hspan => ?_⟩⟩
  · have zero : s.argK.toNat = 0 := congrArg BitVec.toNat hK
    exact exec_of_error (by rw [firstError_rsEncode, if_pos zero])
  · have pos : s.argK.toNat ≠ 0 := by omega
    exact exec_of_error (by rw [firstError_rsEncode, if_neg pos, if_pos hK])
  · have zero : s.argD.toNat = 0 := congrArg BitVec.toNat hD
    exact exec_of_error
      (by rw [firstError_rsEncode, if_neg (toNat_ne_zero hK), if_neg (not_lt.mpr hK'), if_pos zero])
  · exact exec_of_error (by
      rw [firstError_rsEncode, if_neg (toNat_ne_zero hK), if_neg (not_lt.mpr hK'), if_neg (toNat_ne_zero hD),
        if_pos hspan])
  · have pass : firstError (commandChecks s .rsEncode) = none := by
      rw [firstError_rsEncode, if_neg (toNat_ne_zero hK), if_neg (not_lt.mpr hK'), if_neg (toNat_ne_zero hD),
        if_neg (not_lt.mpr hspan)]
    have one_le : 1 ≤ s.opK := Nat.one_le_iff_ne_zero.mpr (toNat_ne_zero hK)
    have len : (rsEc (s.readBytes .inMem s.opOff s.opD) s.opK).length = s.opK := rsEc_length _ one_le
    refine ⟨_, exec_of_pass pass, ?_, ?_, fun a ha => ?_⟩
    · rw [← natWord_toNat]; exact commandDone_eq s .rsEncode
    · have written := commandDone_readBytes (s := s) (i := .rsEncode) rfl
      rw [len] at written
      exact written.trans (rsEc_eq_rsEcLfsr _ one_le)
    · refine commandDone_byteAtAddr_outside s _ ?_
      simp only [commandOutput, Space.base, len]
      exact ha

/-! ### RS_BLOCKINFO -/

theorem blockStart_end {T D B : Nat} (hB : 1 ≤ B) : blockStart T D B B = B * (D / B) + T % B := by
  have last : B - (B - T % B) = T % B := Nat.sub_sub_self (Nat.mod_lt T hB).le
  rw [blockStart, if_neg (by omega), last, Nat.mul_comm, Nat.mul_comm (T % B)]
  exact groups_data T hB

theorem blockInfo_eq (T D B k : Nat) : blockInfo T D B k = (blockSize T D B k, T / B - D / B) := groups_block T D B k

/-- Settles O32: the data spans end at `blockStart` of the number of blocks (`sum_blockSize`, `blockStart_end`). -/
theorem dataSpansSumToD : Obligations.DataSpansSumToD := by
  unfold Obligations.DataSpansSumToD
  intro T D B hB hDT
  have rem := Nat.mod_lt T hB
  have hT := Nat.div_add_mod T B
  have hD := Nat.div_add_mod D B
  have le : B * (D / B) ≤ B * (T / B) := Nat.mul_le_mul_left B (Nat.div_le_div_right hDT)
  simp only [blockInfo_eq, List.sum_map_add, sum_blockSize, blockStart_end hB, List.map_const', List.sum_replicate,
    List.length_range, smul_eq_mul, Nat.mul_sub]
  refine ⟨Nat.sub_pos_of_lt rem, ?_, by omega, by omega⟩
  rw [blockSize, if_pos (Nat.sub_pos_of_lt rem)]

/-- The first check of RS_BLOCKINFO that fails (42_interleave.md R168). -/
theorem firstError_rsBlockinfo (s : State) :
    firstError (commandChecks s .rsBlockinfo) =
      if s.argB.toNat = 0 then some .blocksZero else if 4096 < s.argT.toNat then some .totalRange
      else if s.argT.toNat < s.argD.toNat then some .dataRange
      else if s.argB.toNat ≤ s.argK.toNat then some .blockIdRange else none := by
  rw [commandChecks, firstError_blockinfoChecks]
  simp [rangeChecks, Config.bufBytes, State.opT, State.opD, State.opB, State.opK]

/-- The halves of RS_BLOCKINFO's RESULT as one number. -/
theorem pairWord_eq {d : Nat} (e : Nat) (hd : d < 65536) : pairWord d e = BitVec.ofNat 32 (e * 65536 + d) := by
  refine BitVec.eq_of_toNat_eq ((toNat_concat _ _).trans ?_)
  simp only [BitVec.toNat_ofNat]
  omega

theorem blockSize_le (T D B k : Nat) : blockSize T D B k ≤ D + 1 := by
  have := Nat.div_le_self D B
  unfold blockSize
  split <;> omega

/-- Settles O33: the four checks in their order (`firstError_rsBlockinfo`), and otherwise the sizes of the block. -/
theorem rsBlockinfoReportsSizes : Obligations.RsBlockinfoReportsSizes := by
  unfold Obligations.RsBlockinfoReportsSizes
  refine ⟨illegalFrom_mbz 0x21, ?_⟩
  rintro s _ _ _ _ rfl rfl rfl rfl
  refine ⟨fun hB => ?_, fun hB hT => ?_, fun hB hT hD => ?_, fun hB hT hD hK => ?_, fun hT hD hK => ?_⟩
  · exact exec_of_error (by rw [firstError_rsBlockinfo, if_pos hB])
  · exact exec_of_error (by rw [firstError_rsBlockinfo, if_neg hB, if_pos hT])
  · exact exec_of_error (by rw [firstError_rsBlockinfo, if_neg hB, if_neg (not_lt.mpr hT), if_pos hD])
  · exact exec_of_error (by
      rw [firstError_rsBlockinfo, if_neg hB, if_neg (not_lt.mpr hT), if_neg (not_lt.mpr hD), if_pos hK])
  · have pass : firstError (commandChecks s .rsBlockinfo) = none := by
      rw [firstError_rsBlockinfo, if_neg (Nat.ne_zero_of_lt hK), if_neg (not_lt.mpr hT), if_neg (not_lt.mpr hD),
        if_neg (not_le.mpr hK)]
    have small := blockSize_le s.opT s.opD s.opB s.opK
    have result : commandResult s .rsBlockinfo = BitVec.ofNat 32
        ((s.opT / s.opB - s.opD / s.opB) * 65536 + blockSize s.opT s.opD s.opB s.opK) := by
      rw [commandResult, blockInfo_eq, pairWord_eq]
      simp only [State.opT, State.opD] at *
      omega
    rw [exec_of_pass pass, commandDone_eq, result]
    rfl

/-! ### RS_INTERLEAVE -/

/-- The first check of RS_INTERLEAVE that fails (42_interleave.md R169). -/
theorem firstError_rsInterleave {s : State} {T D B : Nat} (hT : T = s.argT.toNat) (hD : D = s.argD.toNat)
    (hB : B = s.argB.toNat) :
    firstError (commandChecks s .rsInterleave) =
      if B = 0 then some .blocksZero else if 4096 < T then some .totalRange else if T < D then some .dataRange
      else if T / B - D / B = 0 then some .noEcBytes else if 255 < T / B - D / B then some .ecRange
      else if D / B = 0 then some .noDataBytes else if D % B ≠ T % B then some .dataMismatch else none := by
  subst hT hD hB
  rw [firstError_commandChecks_rsInterleave]
  by_cases hB : s.opB = 0
  · exact (if_pos (by simpa using hB)).trans (if_pos hB).symm
  · have mismatch := groups_data_eq_iff s.opT (D := s.opD) (Nat.one_le_iff_ne_zero.mpr hB)
    simp only [rangeChecks, encodeChecks, Config.bufBytes, Config.maxEc, List.cons_append, List.nil_append,
      firstError_cons, firstError_nil, decide_eq_true_eq, beq_iff_eq, bne_iff_ne, gt_iff_lt, ne_eq, mismatch]
    rfl

/-- Settles O34: the checks in their order (`firstError_rsInterleave`). -/
theorem rsInterleaveAbortsInOrder : Obligations.RsInterleaveAbortsInOrder := by
  unfold Obligations.RsInterleaveAbortsInOrder
  refine ⟨illegalFrom_mbz 0x22, fun s T D B hT hD hB => ?_⟩
  have first := firstError_rsInterleave hT hD hB
  have abort {c : ErrCode} (h : firstError (commandChecks s .rsInterleave) = some c) := exec_of_error h
  refine ⟨fun hB0 => abort ?_, fun hB0 hT' => abort ?_, fun hB0 hT' hDT => abort ?_,
    fun hB0 hT' hDT hec => abort ?_, fun hB0 hT' hDT hec => abort ?_,
    fun hB0 hT' hDT hec hec' hDB => abort ?_, fun hT' hDT hec hec' hd hmod => abort ?_⟩ <;> rw [first]
  · rw [if_pos hB0]
  · rw [if_neg hB0, if_pos hT']
  · rw [if_neg hB0, if_neg (not_lt.mpr hT'), if_pos hDT]
  · rw [if_neg hB0, if_neg (not_lt.mpr hT'), if_neg (not_lt.mpr hDT), if_pos (by rw [hec, Nat.sub_self])]
  · rw [if_neg hB0, if_neg (not_lt.mpr hT'), if_neg (not_lt.mpr hDT), if_neg (by omega), if_pos hec]
  · rw [if_neg hB0, if_neg (not_lt.mpr hT'), if_neg (not_lt.mpr hDT), if_neg (Nat.ne_of_gt hec),
      if_neg (not_lt.mpr hec'), if_pos (Nat.div_eq_of_lt hDB)]
  · have hB0 : B ≠ 0 := fun h => by simp [h] at hd
    rw [if_neg hB0, if_neg (not_lt.mpr hT'), if_neg (not_lt.mpr hDT), if_neg (Nat.ne_of_gt hec),
      if_neg (not_lt.mpr hec'), if_neg (Nat.ne_of_gt hd), if_pos hmod]

/-! The places of the data bytes (42_interleave.md R166). -/

theorem data_getElem? (s : State) {T D B k i : Nat} (hi : i < blockSize T D B k) :
    (blockPair s T D B k).data[i]? = some (s.byteAt .inMem (blockStart T D B k + i)) :=
  State.readBytes_getElem? _ _ _ _ _ hi

theorem div_le_blockSize (T D B k : Nat) : D / B ≤ blockSize T D B k := by
  unfold blockSize
  split <;> omega

/-- What stands in the first D places of the codeword sequence is a data column. -/
theorem interleave_getElem?_of_data {s : State} {T D B j : Nat} {b : Byte}
    (h : (columnwise ((sliceAndEncode s T D B).map BlockPair.data))[j]? = some b) :
    (interleave (sliceAndEncode s T D B))[j]? = some b := by
  have hj := (List.getElem?_eq_some_iff.mp h).1
  rw [interleave, List.getElem?_append_left hj, h]

/-- Byte `i` of a block, where every block has one. -/
theorem interleave_data_getElem? (s : State) {T D B k i : Nat} (hlegal : InterleaveLegal T D B) (hk : k < B)
    (hi : i < D / B) :
    (interleave (sliceAndEncode s T D B))[i * B + k]? = some (s.byteAt .inMem (blockStart T D B k + i)) := by
  obtain ⟨hB, -, -, -, -, -, hmod⟩ := hlegal
  have reached (j : Nat) : i < blockSize T D B j := hi.trans_le (div_le_blockSize T D B j)
  have place := columnwise_getElem? (ls := (List.range B).map (fun k => (blockPair s T D B k).data)) (i := i)
    (k := k) (l := (blockPair s T D B k).data) (by rw [List.getElem?_map, List.getElem?_range hk, Option.map_some])
    (List.forall_mem_map.mpr fun j _ => (data_length s T D B j).symm ▸ reached j)
  rw [List.length_map, List.length_range, data_getElem? s (reached k)] at place
  exact interleave_getElem?_of_data (by rw [map_data_sliceAndEncode, place])

theorem column_append (ls ms : List (List Byte)) (i : Nat) : column (ls ++ ms) i = column ls i ++ column ms i :=
  List.filterMap_append

/-- A column that no list reaches. -/
theorem column_eq_nil {ls : List (List Byte)} {i : Nat} (h : ∀ l ∈ ls, l.length ≤ i) : column ls i = [] :=
  List.filterMap_eq_nil_iff.mpr fun l hl => List.getElem?_eq_none (h l hl)

/-- Byte `i` of list `k` of those that reach column `i`, when the other lists come first and end there
(42_interleave.md R166). -/
theorem columnwise_getElem?_of_short {short long : List (List Byte)} {l : List Byte} {i k : Nat}
    (hk : long[k]? = some l) (hshort : ∀ m ∈ short, m.length = i) (hlong : ∀ m ∈ long, i < m.length) :
    (columnwise (short ++ long))[i * (short ++ long).length + k]? = l[i]? := by
  have hmem := List.mem_of_getElem? hk
  have hklt : k < long.length := (List.getElem?_eq_some_iff.mp hk).1
  have col : column (short ++ long) i = long.map (fun l => l.getD i 0) := by
    rw [column_append, column_eq_nil fun m hm => (hshort m hm).le, List.nil_append, column_eq_map hlong]
  have reach : ∀ m ∈ short ++ long, i ≤ m.length := fun m hm =>
    (List.mem_append.mp hm).elim (fun h => (hshort m h).ge) (fun h => (hlong m h).le)
  have cols : ∀ j, j < i → (column (short ++ long) j).length = (short ++ long).length := by
    intro j hj
    rw [column_eq_map fun m hm => hj.trans_le (reach m hm), List.length_map]
  rw [columnwise, flatMap_range_getElem? cols
      ((hlong l hmem).trans_le (length_le_maxLength (List.mem_append_right _ hmem))) (by rwa [col, List.length_map]),
    col, List.getElem?_map, hk, Option.map_some, List.getD_eq_getElem _ _ (hlong l hmem), List.getElem?_eq_getElem]

theorem map_range_split {α : Type} (f : Nat → α) {m n : Nat} (h : m ≤ n) :
    (List.range n).map f = (List.range m).map f ++ (List.range (n - m)).map (fun j => f (m + j)) := by
  conv_lhs => rw [← Nat.add_sub_of_le h, List.range_add, List.map_append, List.map_map]
  rfl

/-- The extra byte of a block of group 2, which comes after the bytes that every block has. -/
theorem interleave_extra_getElem? (s : State) {T D B k : Nat} (hk : B - T % B ≤ k) (hk' : k < B) :
    (interleave (sliceAndEncode s T D B))[D / B * B + (k - (B - T % B))]? =
      some (s.byteAt .inMem (blockStart T D B k + D / B)) := by
  have short (j : Nat) (hj : j < B - T % B) : blockSize T D B j = D / B := if_pos hj
  have long (j : Nat) (hj : B - T % B ≤ j) : blockSize T D B j = D / B + 1 := if_neg (not_lt.mpr hj)
  have split := map_range_split (fun k => (blockPair s T D B k).data) (Nat.sub_le B (T % B))
  have place := columnwise_getElem?_of_short (i := D / B) (k := k - (B - T % B))
    (short := (List.range (B - T % B)).map (fun k => (blockPair s T D B k).data))
    (long := (List.range (B - (B - T % B))).map (fun j => (blockPair s T D B (B - T % B + j)).data))
    (l := (blockPair s T D B k).data)
    (by rw [List.getElem?_map, List.getElem?_range (by omega), Option.map_some, Nat.add_sub_of_le hk])
    (List.forall_mem_map.mpr fun j hj => by rw [data_length, short j (List.mem_range.mp hj)])
    (List.forall_mem_map.mpr fun j _ => by rw [data_length, long _ (Nat.le_add_right _ _)]; exact Nat.lt_succ_self _)
  have reached : D / B < blockSize T D B k := by rw [long k hk]; exact Nat.lt_succ_self _
  rw [← split, List.length_map, List.length_range, data_getElem? s reached] at place
  exact interleave_getElem?_of_data (by rw [map_data_sliceAndEncode, place])

theorem commandChecks_rsInterleave_pass {s : State} {T D B : Nat} (hT : T = s.argT.toNat) (hD : D = s.argD.toNat)
    (hB : B = s.argB.toNat) : firstError (commandChecks s .rsInterleave) = none ↔ InterleaveLegal T D B := by
  subst hT hD hB
  rw [firstError_commandChecks_rsInterleave, ← firstError_interleaveChecks, interleaveChecks_pass_iff]
  rfl

/-- Settles O35: the output is the codeword sequence, whose bytes stand at the places of `interleave_data_getElem?`,
`interleave_extra_getElem?` and `interleave_ec_getElem?`. -/
theorem rsInterleaveWritesCodewords : Obligations.RsInterleaveWritesCodewords := by
  unfold Obligations.RsInterleaveWritesCodewords
  intro s T D B hT hD hB hlegal
  have out : commandOutput s .rsInterleave = (.outMem, interleave (sliceAndEncode s T D B)) := by
    rw [hT, hD, hB]; rfl
  refine ⟨_, exec_of_pass ((commandChecks_rsInterleave_pass hT hD hB).mpr hlegal), ?_, fun k i hk hi => ?_,
    fun k hk hk' => ?_, fun k i hk hi => ?_, fun a ha => ?_⟩
  · rw [← natWord_toNat]; exact commandDone_eq s .rsInterleave
  · exact commandDone_byteAt out (interleave_data_getElem? s hlegal hk hi)
  · exact commandDone_byteAt out (interleave_extra_getElem? s hk hk')
  · have one_le : 1 ≤ T / B - D / B := by omega
    have byte := List.getElem?_eq_getElem (l := (blockPair s T D B k).ec) (i := i) (by rwa [ec_length s k one_le])
    rw [commandDone_byteAt out ((interleave_ec_getElem? s hlegal hk hi).trans byte)]
    exact byte
  · refine commandDone_byteAtAddr_outside s _ ?_
    rw [out, interleave_length s hlegal]
    exact ha

/-! ### What RS_INTERLEAVE reads -/

/-- Two states with the same first D bytes of IN_MEM have the same codewords (93_implementation_defined.md U14). -/
theorem sliceAndEncode_congr {s s' : State} {T D B : Nat} (hB : 1 ≤ B) (hmod : D % B = T % B)
    (hbytes : ∀ i, i < D → s'.byteAt .inMem i = s.byteAt .inMem i) :
    sliceAndEncode s' T D B = sliceAndEncode s T D B := by
  rw [sliceAndEncode_eq_map, sliceAndEncode_eq_map]
  refine List.map_congr_left fun k hk => ?_
  have stop := blockEnd_le hB hmod (List.mem_range.mp hk)
  have span : s'.readBytes .inMem (blockStart T D B k) (blockSize T D B k) =
      s.readBytes .inMem (blockStart T D B k) (blockSize T D B k) :=
    List.map_congr_left fun j hj => hbytes _ (by have := List.mem_range.mp hj; omega)
  rw [blockPair, blockPair, span]

/-- Settles O37: the checks read T, D and B alone, and on operands that pass them the blocks read the first D bytes. -/
theorem interleaveReadsDataOnly : Obligations.InterleaveReadsDataOnly := by
  unfold Obligations.InterleaveReadsDataOnly
  intro s s' t t' hT hD hB hbytes ht ht'
  have first := firstError_rsInterleave (s := s) rfl rfl rfl
  have first' := firstError_rsInterleave (s := s') rfl rfl rfl
  rw [hT, hD, hB, ← first] at first'
  rcases exec_outcomes ht with ⟨c, -, hc, rfl⟩ | ⟨pass, rfl⟩
  · obtain rfl := Host.Outcome.next.inj (ht'.symm.trans (exec_of_error (first'.trans hc)))
    exact ⟨rfl, nofun⟩
  · obtain rfl := Host.Outcome.next.inj (ht'.symm.trans (exec_of_pass (first'.trans pass)))
    have legal := (commandChecks_rsInterleave_pass rfl rfl rfl).mp pass
    have ⟨one_le_B, _, _, _, _, _, hmod⟩ := legal
    have out : commandOutput s .rsInterleave =
        (.outMem, interleave (sliceAndEncode s s.argT.toNat s.argD.toNat s.argB.toNat)) := rfl
    have out' : commandOutput s' .rsInterleave =
        (.outMem, interleave (sliceAndEncode s s.argT.toNat s.argD.toNat s.argB.toNat)) := by
      rw [← sliceAndEncode_congr one_le_B hmod hbytes, ← hT, ← hD, ← hB]; rfl
    refine ⟨rfl, fun _ => ⟨?_, fun i hi => ?_⟩⟩
    · rw [commandDone_result, commandDone_result, commandResult, commandResult, State.opT, State.opT, hT]
    · have byte := List.getElem?_eq_getElem (by rwa [interleave_length s legal])
      rw [commandDone_byteAt out byte, commandDone_byteAt out' byte]

end Sys2Proof.Machine
end

section
/-! PROOFS. The inverse in the field, and the laws of 40_gf_arith.md R105 and R107. -/

namespace Sys2Proof.Machine

theorem gfMul_gfInv {a b : Byte} (h : gfInv a = some b) : gfMul a b = 1 := by
  have ha : a ≠ 0 := fun ha => by simp [gfInv_eq_none.mpr ha] at h
  obtain ⟨r, hr, hone⟩ := exists_gfInv a ha
  obtain rfl : r = b := Option.some.inj (hr.symm.trans h)
  exact hone

/-- The inverse of the inverse: `a = a (b c) = (a b) c = c` where `b` inverts `a` and `c` inverts `b`. -/
theorem gfInv_gfInv {a b : Byte} (h : gfInv a = some b) : gfInv b = some a := by
  have hab := gfMul_gfInv h
  have hb : b ≠ 0 := by
    rintro rfl
    rw [gfMul_zero_right] at hab
    exact absurd hab (by decide)
  obtain ⟨c, hc, hbc⟩ := exists_gfInv b hb
  have same : a = c := by rw [← gfMul_one a, ← hbc, ← gfMul_assoc, hab, one_gfMul]
  rw [hc, same]

/-- Settles O11, from the laws of the product of R104 and of the tables. -/
theorem gfFieldLaws : Obligations.GfFieldLaws := by
  unfold Obligations.GfFieldLaws
  exact ⟨fun a b => ⟨gfAdd_comm a b, gfMul_comm a b⟩,
    fun a b c => ⟨gfAdd_assoc a b c, gfMul_assoc a b c, gfMul_gfAdd a b c⟩,
    fun a => ⟨gfMul_one a, gfMul_zero_right a⟩, fun _ _ => gfMul_eq_zero, fun _ _ => gfMul_expOf,
    fun _ _ => gfInv_gfInv⟩

/-- Settles O10: the inverse goes through the logarithm, and its product is `gfMul_gfInv`. -/
theorem gfInverseMultipliesToOne : Obligations.GfInverseMultipliesToOne := by
  unfold Obligations.GfInverseMultipliesToOne
  refine ⟨gfInv_eq_none.mpr rfl, by decide, fun a ha => ?_⟩
  obtain ⟨i, -, hlog, -⟩ := exists_log a ha
  exact ⟨i, hlog, gfInv_of_log hlog, gfMul_gfInv (gfInv_of_log hlog)⟩

end Sys2Proof.Machine
end

section
/-! PROOFS. A polynomial is its coefficients (41_poly_rs.md R131), the division with remainder by any divisor but 0
(R135), and what it says of codewords (R143). -/

namespace Sys2Proof.Machine

/-! ### The normal form -/

theorem eq_of_coef_eq {p q : List Byte} (hlen : p.length = q.length) (h : ∀ k, coef p k = coef q k) : p = q := by
  refine List.ext_getElem? fun i => ?_
  by_cases hi : i < p.length
  · rw [getElem?_eq_coef hi, getElem?_eq_coef (hlen ▸ hi), h, hlen]
  · rw [List.getElem?_eq_none (by omega), List.getElem?_eq_none (by omega)]

/-- Padded to one length, lists with the same coefficients are the same. -/
theorem norm_eq_norm_iff {p q : List Byte} : norm p = norm q ↔ ∀ k, coef p k = coef q k := by
  refine ⟨fun h k => by rw [← coef_norm, h, coef_norm], fun h => ?_⟩
  have padded : padTo q.length p = padTo p.length q := by
    refine eq_of_coef_eq (by simp only [padTo_length]; omega) fun k => ?_
    simp only [padTo, coef_replicate_append, h]
  calc norm p = norm (padTo q.length p) := (norm_replicate_append _ _).symm
    _ = norm (padTo p.length q) := by rw [padded]
    _ = norm q := norm_replicate_append _ _

theorem norm_cases (p : List Byte) : norm p = [0] ∨ ∃ c r, norm p = c :: r ∧ c ≠ 0 := by
  induction p with
  | nil => exact .inl rfl
  | cons c p ih =>
    by_cases h : c = 0
    · rw [h, norm_zero_cons]; exact ih
    · exact .inr ⟨c, p, norm_cons_of_ne_zero p h, h⟩

theorem coef_of_deg_lt {p : List Byte} {k : Nat} (h : deg p < k) : coef p k = 0 := by
  rw [← coef_norm]
  refine coef_of_length_le ?_
  rw [deg] at h
  omega

/-- Settles O18: lists of one length are compared coefficient by coefficient (`norm_eq_norm_iff`). -/
theorem normalFormIdentifiesPolynomial : Obligations.NormalFormIdentifiesPolynomial := by
  unfold Obligations.NormalFormIdentifiesPolynomial
  exact ⟨fun _ _ => norm_eq_norm_iff, norm_cases, fun _ _ => coef_of_deg_lt⟩

@[simp] theorem coef_polyAdd (p q : List Byte) (k : Nat) : coef (polyAdd p q) k = gfAdd (coef p k) (coef q k) := by
  rw [polyAdd, coef_norm, coef_addRaw]

/-- Settles O19: the sum is the normal form of the sum coefficient by coefficient. -/
theorem polyAddAddsCoefficients : Obligations.PolyAddAddsCoefficients := by
  unfold Obligations.PolyAddAddsCoefficients
  exact fun p q => ⟨coef_polyAdd p q, norm_norm (addRaw p q)⟩

/-- Settles O22: one turn of Horner's rule is `polyEval_concat`; at 1 each turn is an exclusive OR. -/
theorem polyEvalIsHorner : Obligations.PolyEvalIsHorner := by
  unfold Obligations.PolyEvalIsHorner
  refine ⟨polyEval_nil, polyEval_concat, fun p c => ?_, fun p => ?_, fun p n x => polyEval_replicate_append n p x,
    polyEval_norm⟩
  · rw [polyEval_concat, gfMul_zero_right, zero_gfAdd]
  · simp only [polyEval, gfMul_one, gfAdd_eq_xor]

/-! ### Degree -/

theorem lead_ne_zero {p : List Byte} (h : norm p ≠ [0]) : lead p ≠ 0 := by
  obtain ⟨c, r, hp, hc⟩ := (norm_cases p).resolve_left h
  have top : lead p = c := by rw [lead, ← coef_norm, deg, hp, List.length_cons, Nat.add_sub_cancel, coef_cons_length]
  rw [top]
  exact hc

/-- A polynomial whose coefficients from x^n on are 0 has a degree below n or is 0. -/
theorem deg_lt_of_coef {p : List Byte} {n : Nat} (h : ∀ k, n ≤ k → coef p k = 0) : deg p < n ∨ norm p = [0] := by
  by_contra! large
  exact lead_ne_zero large.2 (h _ large.1)

/-- The coefficients of a remainder from the degree of the divisor on. -/
theorem coef_of_small {r g : List Byte} (h : deg r < deg g ∨ r = [0]) {k : Nat} (hk : deg g ≤ k) : coef r k = 0 := by
  rcases h with h | rfl
  · exact coef_of_deg_lt (h.trans_le hk)
  · exact coef_zero_cons [] k

/-! ### Products -/

theorem coef_polyAdd_mul (p p' q : List Byte) (k : Nat) :
    coef (polyMul (polyAdd p p') q) k = gfAdd (coef (polyMul p q) k) (coef (polyMul p' q) k) := by
  simp only [coef_polyMul, coef_polyAdd, gfAdd_gfMul, gfSum_add]

theorem coef_mulMonomial (p : List Byte) (d : Nat) (c : Byte) (k : Nat) :
    coef (mulMonomial p d c) k = if k < d then 0 else gfMul (coef p (k - d)) c := by
  unfold mulMonomial
  split
  next h => rw [h, coef_zero_cons, coef_nil, gfMul_zero_right, ite_self]
  next => rw [coef_norm, coef_append_replicate, coef_scale]

/-- `mul_monomial` is the product with the monomial (41_poly_rs.md R134). -/
theorem coef_monomial_mul (p : List Byte) (d : Nat) (c : Byte) (k : Nat) :
    coef (polyMul (c :: List.replicate d 0) p) k = coef (mulMonomial p d c) k := by
  have single : gfSum (k + 1) (fun i => gfMul (coef (c :: List.replicate d 0) i) (coef p (k - i))) =
      gfSum (k + 1) (fun i => if i = d then gfMul (coef p (k - d)) c else 0) := by
    refine gfSum_congr fun i _ => ?_
    rw [coef_cons, coef_replicate, List.length_replicate]
    split
    next h => rw [h, gfMul_comm]
    next => rw [gfMul_zero_left]
  rw [coef_polyMul, single, gfSum_single, coef_mulMonomial]
  by_cases h : k < d
  · rw [if_neg (by omega), if_pos h]
  · rw [if_pos (by omega), if_neg h]

/-- The top coefficient of a product: in every other term one factor is above its degree. -/
theorem coef_polyMul_top (p q : List Byte) : coef (polyMul p q) (deg p + deg q) = gfMul (lead p) (lead q) := by
  have single : gfSum (deg p + deg q + 1) (fun i => gfMul (coef p i) (coef q (deg p + deg q - i))) =
      gfSum (deg p + deg q + 1) (fun i => if i = deg p then gfMul (lead p) (lead q) else 0) := by
    refine gfSum_congr fun i _ => ?_
    rcases lt_trichotomy i (deg p) with h | rfl | h
    · rw [if_neg h.ne, coef_of_deg_lt (p := q) (by omega), gfMul_zero_right]
    · rw [if_pos rfl, Nat.add_sub_cancel_left, lead, lead]
    · rw [if_neg h.ne', coef_of_deg_lt h, gfMul_zero_left]
  rw [coef_polyMul, single, gfSum_single, if_pos (by omega)]

/-! ### Division with remainder -/

/-- One iteration of `poly_mod` eliminates the leading coefficient. -/
theorem deg_iteration {r g : List Byte} {leadInv : Byte} (hinv : gfMul (lead g) leadInv = 1) (hdeg : deg g ≤ deg r) :
    deg (polyAdd r (mulMonomial g (deg r - deg g) (gfMul (lead r) leadInv))) < deg r ∨
      norm (polyAdd r (mulMonomial g (deg r - deg g) (gfMul (lead r) leadInv))) = [0] := by
  refine deg_lt_of_coef fun k hk => ?_
  rw [coef_polyAdd, coef_mulMonomial, if_neg (by omega)]
  rcases hk.eq_or_lt with rfl | hk
  · have top : gfMul (coef g (deg g)) (gfMul (lead r) leadInv) = lead r := by
      rw [gfMul_comm (lead r), ← gfMul_assoc, ← lead, hinv, one_gfMul]
    rw [Nat.sub_sub_self hdeg, top, lead, gfAdd_self]
  · rw [coef_of_deg_lt hk, coef_of_deg_lt (p := g) (by omega), gfMul_zero_left, gfAdd_self]

/-- `r` is a remainder of `p` by `g`: small, in normal form, and a multiple of `g` away (41_poly_rs.md R135). -/
def IsRemainder (g p r : List Byte) : Prop :=
  (deg r < deg g ∨ r = [0]) ∧ norm r = r ∧
    ∃ q, q ≠ [] ∧ ∀ k, coef p k = gfAdd (coef (polyMul q g) k) (coef r k)

theorem isRemainder_self {g r : List Byte} (small : deg r < deg g ∨ r = [0]) (hr : norm r = r) : IsRemainder g r r :=
  ⟨small, hr, [0], List.cons_ne_nil _ _, fun k => by rw [zero_polyMul, coef_zero_cons, coef_nil, zero_gfAdd]⟩

/-- Only the coefficients of the dividend count. -/
theorem IsRemainder.congr {g p p' r : List Byte} (h : IsRemainder g p r) (hp : ∀ k, coef p' k = coef p k) :
    IsRemainder g p' r := by
  obtain ⟨small, hr, q, hne, hq⟩ := h
  exact ⟨small, hr, q, hne, fun k => (hp k).trans (hq k)⟩

/-- Adding a multiple of the divisor keeps the remainders. -/
theorem IsRemainder.of_add_monomial {g p r : List Byte} {d : Nat} {c : Byte}
    (h : IsRemainder g (polyAdd p (mulMonomial g d c)) r) : IsRemainder g p r := by
  obtain ⟨small, hr, q, -, hq⟩ := h
  refine ⟨small, hr, polyAdd q (c :: List.replicate d 0), norm_ne_nil _, fun k => ?_⟩
  have hk := hq k
  rw [coef_polyAdd] at hk
  calc coef p k
      = gfAdd (gfAdd (coef p k) (coef (mulMonomial g d c) k)) (coef (mulMonomial g d c) k) := by
        rw [gfAdd_assoc, gfAdd_self, gfAdd_zero]
    _ = gfAdd (coef (polyMul (polyAdd q (c :: List.replicate d 0)) g) k) (coef r k) := by
        rw [hk, coef_polyAdd_mul, coef_monomial_mul, gfAdd_assoc, gfAdd_comm (coef r k), ← gfAdd_assoc]

/-- Each iteration of the loop lowers the degree, so the fuel suffices. -/
theorem polyModLoop_isRemainder {g : List Byte} {leadInv : Byte} (hinv : gfMul (lead g) leadInv = 1) {fuel : Nat}
    {r : List Byte} (hr : norm r = r) (hfuel : deg r < fuel + deg g ∨ r = [0]) :
    IsRemainder g r (polyModLoop g leadInv fuel r) := by
  induction fuel generalizing r with
  | zero => exact isRemainder_self (by rwa [Nat.zero_add] at hfuel) hr
  | succ fuel ih =>
    rw [polyModLoop]
    split
    next large =>
      obtain ⟨hdeg, hne⟩ := large
      have lower := deg_iteration hinv hdeg
      have normal : norm (polyAdd r (mulMonomial g (deg r - deg g) (gfMul (lead r) leadInv))) = _ := norm_norm _
      rw [normal] at lower
      refine (ih normal (lower.imp_left fun h => ?_)).of_add_monomial
      have := hfuel.resolve_right hne
      omega
    next small =>
      refine isRemainder_self ?_ hr
      by_contra! large
      exact small large

theorem polyMod_isRemainder (p : List Byte) {g : List Byte} (hg : norm g ≠ [0]) : IsRemainder g p (polyMod p g) := by
  obtain ⟨leadInv, hinv, hone⟩ := exists_gfInv (lead g) (lead_ne_zero hg)
  rw [polyMod, hinv]
  refine (polyModLoop_isRemainder hone (norm_norm p) (.inl ?_)).congr fun k => (coef_norm p k).symm
  rw [deg, norm_norm, ← deg]
  omega

/-- The difference of two remainders is a multiple of the divisor of a lower degree, so it is 0. -/
theorem IsRemainder.unique {g p r r' : List Byte} (hg : norm g ≠ [0]) (h : IsRemainder g p r)
    (h' : IsRemainder g p r') : r = r' := by
  obtain ⟨small, hr, q, -, hq⟩ := h
  obtain ⟨small', hr', q', -, hq'⟩ := h'
  have multiple : ∀ k, coef (polyMul (polyAdd q q') g) k = gfAdd (coef r k) (coef r' k) := fun k => by
    rw [coef_polyAdd_mul, ← gfAdd_eq_zero]
    calc gfAdd (gfAdd (coef (polyMul q g) k) (coef (polyMul q' g) k)) (gfAdd (coef r k) (coef r' k))
        = gfAdd (gfAdd (coef (polyMul q g) k) (coef r k)) (gfAdd (coef (polyMul q' g) k) (coef r' k)) := by
          simp only [gfAdd_assoc, gfAdd_left_comm]
      _ = 0 := by rw [← hq k, ← hq' k, gfAdd_self]
  have zero : norm (polyAdd q q') = [0] := by
    by_contra hne
    have top := coef_polyMul_top (polyAdd q q') g
    rw [multiple, coef_of_small small (Nat.le_add_left _ _), coef_of_small small' (Nat.le_add_left _ _),
      gfAdd_zero] at top
    rcases gfMul_eq_zero.mp top.symm with h0 | h0
    · exact lead_ne_zero hne h0
    · exact lead_ne_zero hg h0
  rw [← hr, ← hr', norm_eq_norm_iff]
  intro k
  have same : polyAdd q q' = [0] := (norm_norm (addRaw q q')).symm.trans zero
  rw [← gfAdd_eq_zero, ← multiple, same, zero_polyMul, coef_zero_cons, coef_nil]

theorem norm_eq_polyAdd_iff {p q r g : List Byte} :
    norm p = polyAdd (polyMul q g) r ↔ ∀ k, coef p k = gfAdd (coef (polyMul q g) k) (coef r k) := by
  rw [polyAdd, norm_eq_norm_iff]
  simp only [coef_addRaw]

/-- Settles O21: the loop's result is a remainder (`polyMod_isRemainder`), and there is one only
(`IsRemainder.unique`). -/
theorem polyModIsTheRemainder : Obligations.PolyModIsTheRemainder := by
  unfold Obligations.PolyModIsTheRemainder
  intro p g hg
  have remainder := polyMod_isRemainder p hg
  have ⟨small, _, q, hq, hcoef⟩ := remainder
  exact ⟨small, ⟨q, hq, norm_eq_polyAdd_iff.mpr hcoef⟩, fun q r hq hr small hpqr =>
    IsRemainder.unique hg ⟨small, hr, q, hq, norm_eq_polyAdd_iff.mp hpqr⟩ remainder⟩

/-! ### Codewords -/

theorem norm_genPoly_ne_zero (e : Nat) : norm (genPoly e) ≠ [0] := by
  obtain ⟨low, -, hgen⟩ := exists_genPoly_eq e
  rw [hgen, norm_cons_of_ne_zero low (by decide)]
  exact fun h => absurd (List.cons_eq_cons.mp h).1 (by decide)

theorem coef_append (p q : List Byte) (k : Nat) :
    coef (p ++ q) k = if k < q.length then coef q k else coef p (k - q.length) := by
  unfold coef
  rw [List.reverse_append]
  split
  next h => rw [List.getD_append _ _ _ _ (by simpa using h)]
  next h => rw [List.getD_append_right _ _ _ _ (by simpa using h), List.length_reverse]

/-- A codeword is the message times x^e plus its EC bytes (41_poly_rs.md R140). -/
theorem coef_codeword (data : List Byte) {e : Nat} (he : 1 ≤ e) (k : Nat) :
    coef (data ++ rsEc data e) k = gfAdd (coef (data ++ List.replicate e 0) k) (coef (rsEc data e) k) := by
  have len := rsEc_length data he
  rw [coef_append, coef_append_replicate, len]
  split
  next => rw [zero_gfAdd]
  next h => rw [coef_of_length_le (p := rsEc data e) (by omega), gfAdd_zero]

/-- The EC bytes are the remainder of the message times x^e (41_poly_rs.md R141). -/
theorem rsEc_isRemainder (data : List Byte) {e : Nat} (he : 1 ≤ e) :
    IsRemainder (genPoly e) (data ++ List.replicate e 0) (norm (rsEc data e)) := by
  rw [rsEc_eq_rsEcLfsr data he, ← polyMod_genPoly data he]
  exact polyMod_isRemainder _ (norm_genPoly_ne_zero e)

/-- A codeword is a multiple of the generator: its EC bytes cancel the remainder. -/
theorem exists_codeword_eq_mul (data : List Byte) {e : Nat} (he : 1 ≤ e) :
    ∃ q, q ≠ [] ∧ norm (data ++ rsEc data e) = polyAdd (polyMul q (genPoly e)) [0] := by
  obtain ⟨-, -, q, hq, hcoef⟩ := rsEc_isRemainder data he
  refine ⟨q, hq, norm_eq_polyAdd_iff.mpr fun k => ?_⟩
  rw [coef_codeword data he, hcoef, coef_norm, gfAdd_assoc, gfAdd_self, coef_zero_cons, coef_nil]

/-- Settles O26: a codeword is a multiple of the generator, so its remainder is 0 and it vanishes at the generator's
roots. -/
theorem codewordVanishesAtRoots : Obligations.CodewordVanishesAtRoots := by
  unfold Obligations.CodewordVanishesAtRoots
  intro data e _ he he'
  have hg := norm_genPoly_ne_zero e
  obtain ⟨q, hq, hmul⟩ := exists_codeword_eq_mul data he
  have divisible : IsRemainder (genPoly e) (data ++ rsEc data e) [0] :=
    ⟨.inr rfl, rfl, q, hq, norm_eq_polyAdd_iff.mp hmul⟩
  refine ⟨(polyMod_isRemainder _ hg).unique hg divisible, fun i hi => ?_⟩
  have root : polyEval (genPoly e) (expOf i) = 0 := (polyEval_genPoly_eq_zero he' _).mpr ⟨i, hi, rfl⟩
  rw [← polyEval_norm, hmul, polyAdd, polyEval_norm, polyEval_addRaw, polyEval_polyMul, root, gfMul_zero_right,
    polyEval_zero_cons, polyEval_nil, gfAdd_zero]

/-! ### Linearity of the EC bytes -/

/-- The sum of remainders is a remainder of the sum. -/
theorem IsRemainder.add {g p p' r r' : List Byte} (h : IsRemainder g p r) (h' : IsRemainder g p' r') :
    IsRemainder g (polyAdd p p') (polyAdd r r') := by
  obtain ⟨small, -, q, -, hq⟩ := h
  obtain ⟨small', -, q', -, hq'⟩ := h'
  have normal : norm (polyAdd r r') = polyAdd r r' := norm_norm _
  have low := deg_lt_of_coef (p := polyAdd r r') (n := deg g) fun k hk => by
    rw [coef_polyAdd, coef_of_small small hk, coef_of_small small' hk, gfAdd_zero]
  rw [normal] at low
  refine ⟨low, normal, polyAdd q q', norm_ne_nil _, fun k => ?_⟩
  simp only [coef_polyAdd, coef_polyAdd_mul, hq k, hq' k, gfAdd_assoc, gfAdd_left_comm]

/-- The EC bytes of a sum: both sides are e bytes with the coefficients of the one remainder. -/
theorem rsEc_zipWith {a b : List Byte} {e : Nat} (hlen : a.length = b.length) (he : 1 ≤ e) :
    rsEc (List.zipWith gfAdd a b) e = List.zipWith gfAdd (rsEc a e) (rsEc b e) := by
  have len (data : List Byte) := rsEc_length data he
  have sum : IsRemainder (genPoly e) (List.zipWith gfAdd a b ++ List.replicate e 0)
      (polyAdd (norm (rsEc a e)) (norm (rsEc b e))) := by
    refine ((rsEc_isRemainder a he).add (rsEc_isRemainder b he)).congr fun k => ?_
    simp only [coef_polyAdd, coef_append_replicate, coef_zipWith hlen]
    split
    next => rfl
    next => rfl
  have same := (rsEc_isRemainder (List.zipWith gfAdd a b) he).unique (norm_genPoly_ne_zero e) sum
  refine eq_of_coef_eq (by rw [List.length_zipWith, len, len, len, Nat.min_self]) fun k => ?_
  rw [coef_zipWith ((len a).trans (len b).symm), ← coef_norm, same, coef_polyAdd, coef_norm, coef_norm]

theorem zipWith_gfAdd_self (p : List Byte) : List.zipWith gfAdd p p = List.replicate p.length 0 := by
  induction p with
  | nil => rfl
  | cons c p ih => rw [List.zipWith_cons_cons, ih, gfAdd_self, List.length_cons, List.replicate_succ]

/-- Zeros are the sum of any block with itself. -/
theorem rsEc_replicate (n : Nat) {e : Nat} (he : 1 ≤ e) : rsEc (List.replicate n 0) e = List.replicate e 0 := by
  have sum := rsEc_zipWith (a := List.replicate n 0) rfl he
  rwa [zipWith_gfAdd_self, zipWith_gfAdd_self, List.length_replicate, rsEc_length _ he] at sum

theorem rsEc_zero_cons (data : List Byte) (e : Nat) : rsEc (0 :: data) e = rsEc data e := by
  rw [rsEc, norm_zero_cons, ← rsEc]

/-- The generator of degree 1 is x + 1, so its shift register adds up the data. -/
theorem foldl_lfsrStep_one (data : List Byte) (r : Byte) :
    data.foldl (lfsrStep [1, 1]) [r] = [data.foldl gfAdd r] := by
  induction data generalizing r with
  | nil => rfl
  | cons d data ih =>
    have first : lfsrStep [1, 1] [r] d = [gfAdd r d] := by
      rw [lfsrStep_cons, scale, List.map_singleton, one_gfMul, List.nil_append, List.zipWith_cons_cons, zero_gfAdd]
      rfl
    rw [List.foldl_cons, first, ih, List.foldl_cons]

theorem rsEc_one (data : List Byte) : rsEc data 1 = [data.foldl gfAdd 0] := by
  have generator : genPoly 1 = [1, 1] := by decide
  rw [rsEc_eq_rsEcLfsr data le_rfl, rsEcLfsr, generator]
  exact foldl_lfsrStep_one data 0

/-- Settles O27: linearity is the uniqueness of the remainder (`rsEc_zipWith`), and zero data gives the sum of a block
with itself. -/
theorem ecBytesAreLinear : Obligations.EcBytesAreLinear := by
  unfold Obligations.EcBytesAreLinear
  exact ⟨fun _ _ _ _ hlen he _ => rsEc_zipWith hlen he, fun n _ _ he _ => rsEc_replicate n he,
    fun data e _ _ _ => rsEc_zero_cons data e, fun data _ => rsEc_one data⟩

end Sys2Proof.Machine
end

section
/-! PROOFS. What the host reads of the registers and the memories, busy or idle (20_memory.md R62, R66, R68), the bits
of STATUS and IRQ_EN (10_state.md R23, R30, R44), and the obligations of tier 1 on reset, reads and registers. -/

namespace Sys2Proof.Machine

/-! ### Reset -/

/-- Settles O3: a hardware reset lists no byte, so every address holds its draw. -/
theorem hardwareResetDrawsMemories : Obligations.HardwareResetDrawsMemories := by
  unfold Obligations.HardwareResetDrawsMemories
  intro s level h a
  rw [State.setRst_eq_resetRegisters h]
  rfl

/-- Settles O4: the state after reset is its own `resetRegisters`, over an empty memory. -/
theorem resetMeetsInvariant : Obligations.ResetMeetsInvariant := by
  unfold Obligations.ResetMeetsInvariant
  exact State.resetRegisters_inv (s := State.reset) reset_mem_wf.1 reset_mem_wf.2

/-! ### Words of registers -/

theorem zext32_half (v : Half) : zext32 v = 0#16 ++ v := by
  refine BitVec.eq_of_toNat_eq (Eq.trans ?_ (toNat_concat _ _).symm)
  simp only [zext32, BitVec.toNat_setWidth, BitVec.toNat_ofNat]
  omega

theorem zext32_byte (v : Byte) : zext32 v = 0#24 ++ v := by
  refine BitVec.eq_of_toNat_eq (Eq.trans ?_ (toNat_concat _ _).symm)
  simp only [zext32, BitVec.toNat_setWidth, BitVec.toNat_ofNat]
  omega

/-- The stored half of a written word reads with zeros above (10_state.md R39). -/
theorem zext32_low_half (w : Word) : zext32 (w.extractLsb' 0 16) = w &&& 0x0000FFFF#32 := by
  have mask : (w &&& 0x0000FFFF#32).toNat = w.toNat % 2 ^ 16 := Nat.and_two_pow_sub_one_eq_mod w.toNat 16
  refine BitVec.eq_of_toNat_eq ?_
  simp only [mask, zext32, BitVec.toNat_setWidth, BitVec.extractLsb'_toNat, Nat.shiftRight_zero]
  omega

theorem low_half_eq_setWidth (w : Word) : w.extractLsb' 0 16 = w.setWidth 16 := by
  refine BitVec.eq_of_getLsbD_eq fun j hj => ?_
  simp

theorem getLsbD_append_bit {n : Nat} (x : BitVec n) (b : Bool) : (x ++ BitVec.ofBool b).getLsbD 0 = b := by
  rw [BitVec.getLsbD_append]; simp

theorem getLsbD_append_bit_succ {n : Nat} (x : BitVec n) (b : Bool) (i : Nat) :
    (x ++ BitVec.ofBool b).getLsbD (i + 1) = x.getLsbD i := by
  rw [BitVec.getLsbD_append]; simp

/-- The bits of IRQ_EN (10_state.md R30). -/
theorem IrqEnable.word_bits (e : IrqEnable) :
    e.word.getLsbD 0 = e.doneIe ∧ e.word.getLsbD 1 = e.errIe ∧ e.word.getLsbD 2 = e.accIe ∧
      e.word.extractLsb' 3 29 = 0#29 := by
  have skip (i : Nat) : e.word.getLsbD (i + 1) = (0#29 ++ BitVec.ofBool e.accIe ++ BitVec.ofBool e.errIe).getLsbD i :=
    getLsbD_append_bit_succ _ _ _
  refine ⟨getLsbD_append_bit _ _, (skip 0).trans (getLsbD_append_bit _ _), ?_, ?_⟩
  · exact (skip 1).trans ((getLsbD_append_bit_succ _ _ 0).trans (getLsbD_append_bit _ _))
  · exact (extract_high _ _ 2 29).trans ((extract_high _ _ 1 29).trans
      ((extract_high _ _ 0 29).trans BitVec.extractLsb'_eq_self))

/-- The bits of STATUS (10_state.md R23). -/
theorem Status.word_bits (st : Status) :
    st.word.getLsbD 0 = st.busy ∧ st.word.getLsbD 1 = st.done ∧ st.word.getLsbD 2 = st.err ∧
      st.word.getLsbD 3 = st.accessErr ∧ st.word.extractLsb' 4 4 = st.errcode.code ∧
      st.word.extractLsb' 8 24 = 0#24 := by
  have high (i len : Nat) : st.word.extractLsb' (1 + (1 + (1 + (1 + i)))) len =
      (0#24 ++ st.errcode.code).extractLsb' i len :=
    (extract_high _ _ _ len).trans ((extract_high _ _ _ len).trans
      ((extract_high _ _ _ len).trans (extract_high _ _ i len)))
  have skip (i : Nat) : st.word.getLsbD (i + 2) =
      (0#24 ++ st.errcode.code ++ BitVec.ofBool st.accessErr ++ BitVec.ofBool st.err).getLsbD i :=
    (getLsbD_append_bit_succ _ _ (i + 1)).trans (getLsbD_append_bit_succ _ _ i)
  refine ⟨getLsbD_append_bit _ _, (getLsbD_append_bit_succ _ _ 0).trans (getLsbD_append_bit _ _),
    (skip 0).trans (getLsbD_append_bit _ _),
    (skip 1).trans ((getLsbD_append_bit_succ _ _ 0).trans (getLsbD_append_bit _ _)),
    (high 0 4).trans (extract_low _ _), ?_⟩
  exact (high 4 24).trans ((extract_high _ _ 0 24).trans BitVec.extractLsb'_eq_self)

/-! ### Reads -/

/-- The read of a memory word (20_memory.md R62, R68). -/
theorem busRead_word {addr : BitVec 16} {sp : Space} {i : Nat} (s : State) (ha : aligned addr = true)
    (ht : targetOf addr = .word sp i) :
    busRead addr s =
      if s.status.busy && (Target.word sp i).hiddenWhileBusy then (Config.busyRead s.draws, .ok)
      else (s.memWord sp i, .ok) := by
  simp only [busRead, ha, ht, if_true]

theorem memWord_eq (s : State) {sp : Space} {i n : Nat} (h : sp.base + i = n) :
    s.memWord sp i = s.byteAtAddr (n + 3) ++ s.byteAtAddr (n + 2) ++ s.byteAtAddr (n + 1) ++ s.byteAtAddr n := by
  subst h; rfl

/-- Of the memories IN_MEM alone stays visible while BUSY = 1 (20_memory.md R68). -/
theorem Target.word_hidden (sp : Space) (i : Nat) : (Target.word sp i).hiddenWhileBusy = decide (sp ≠ .inMem) := by
  cases sp <;> rfl

theorem busRead_reg_idle {r : Reg} {s : State} (idle : s.status.busy = false) :
    busRead r.offset s = (s.regWord r, .ok) := by
  rw [busRead_reg, idle, Bool.false_and]
  rfl

theorem busRead_reg_hidden {r : Reg} {s : State} (busy : s.status.busy = true)
    (hidden : (Target.reg r).hiddenWhileBusy = true) :
    busRead r.offset s = (Config.busyRead s.draws, .ok) := by
  rw [busRead_reg, busy, hidden]
  rfl

/-- The memories that the engine writes read as a free word while it is busy. -/
theorem busRead_window_hidden {addr : BitVec 16} {s : State} (ha : aligned addr = true) (busy : s.status.busy = true)
    (lo : 0x2000 ≤ addr.toNat) (hi : addr.toNat < 0x3200) :
    busRead addr s = (Config.busyRead s.draws, .ok) := by
  obtain ⟨sp, i, ht⟩ := exists_targetOf_eq_word (by omega) hi
  have window := targetOf_word ht
  have notIn : sp ≠ .inMem := by
    rintro rfl
    simp only [Space.base, Space.size, Config.bufBytes] at window
    omega
  rw [busRead_word s ha ht, busy, Target.word_hidden, decide_eq_true notIn]
  rfl

/-- Every other read of a window is the four stored bytes. -/
theorem busRead_window_visible {addr : BitVec 16} {s : State} (ha : aligned addr = true) (lo : 0x1000 ≤ addr.toNat)
    (hi : addr.toNat < 0x3200) (hfree : s.status.busy = false ∨ addr.toNat < 0x2000) :
    busRead addr s = (s.byteAtAddr (addr.toNat + 3) ++ s.byteAtAddr (addr.toNat + 2) ++
      s.byteAtAddr (addr.toNat + 1) ++ s.byteAtAddr addr.toNat, .ok) := by
  obtain ⟨sp, i, ht⟩ := exists_targetOf_eq_word lo hi
  obtain ⟨base, -⟩ := targetOf_word ht
  have visible : (s.status.busy && (Target.word sp i).hiddenWhileBusy) = false := by
    rcases hfree with idle | low
    · rw [idle]; rfl
    · rw [targetOf_inMem lo low] at ht
      obtain ⟨rfl, -⟩ := Target.word.inj ht
      exact Bool.and_false _
  rw [busRead_word s ha ht, visible, ← memWord_eq s base]
  rfl

theorem busRead_irqEn (s : State) : busRead 0x000C s = (s.irqEn.word, .ok) := busRead_reg_visible (r := .irqEn) s rfl

/-- Settles O46: RESULT, GEN_DEG and the windows from OUT_MEM on are hidden while BUSY = 1 (`busRead_reg_hidden`,
`busRead_window_hidden`); every other read is the stored value. -/
theorem busyReadsUnspecified : Obligations.BusyReadsUnspecified := by
  unfold Obligations.BusyReadsUnspecified
  refine ⟨fun s => ⟨fun idle => ⟨busRead_reg_idle (r := .result) idle, ?_⟩,
    busRead_reg_visible (r := .id) s rfl, busRead_reg_visible (r := .ctrl) s rfl,
    ⟨_, busRead_irqEn s, s.irqEn.word_bits⟩, busRead_reg_visible (r := .cmd) s rfl, ?_, ?_, ?_, ?_, ?_⟩,
    fun addr s h4 => ?_⟩
  · rw [← zext32_byte]; exact busRead_reg_idle (r := .genDeg) idle
  · rw [← zext32_half]; exact busRead_reg_visible (r := .argT) s rfl
  · rw [← zext32_half]; exact busRead_reg_visible (r := .argD) s rfl
  · rw [← zext32_half]; exact busRead_reg_visible (r := .argB) s rfl
  · rw [← zext32_half]; exact busRead_reg_visible (r := .argK) s rfl
  · rw [← zext32_half]; exact busRead_reg_visible (r := .argOff) s rfl
  · have ha := aligned_iff.mpr h4
    refine ⟨fun busy hidden => ?_, ?_, fun lo hi hfree => busRead_window_visible ha lo hi hfree, rfl⟩
    · rcases hidden with rfl | rfl | ⟨lo, hi⟩
      · exact busRead_reg_hidden (r := .result) busy rfl
      · exact busRead_reg_hidden (r := .genDeg) busy rfl
      · exact busRead_window_hidden ha busy lo hi
    · rintro r rfl (idle | ⟨notResult, notGenDeg⟩)
      · exact busRead_reg_idle idle
      · refine busRead_reg_visible s ?_
        cases r with
        | result => exact absurd rfl notResult
        | genDeg => exact absurd rfl notGenDeg
        | _ => rfl

/-! ### Registers -/

/-- Settles O51: the ARG registers are writable and visible; the write stores the low half (`low_half_eq_setWidth`) and
the read extends it (`zext32_low_half`). -/
theorem argRegistersStoreLowHalf : Obligations.ArgRegistersStoreLowHalf := by
  unfold Obligations.ArgRegistersStoreLowHalf
  intro w s idle
  rw [← low_half_eq_setWidth]
  have write {r : Reg} (hro : (Target.reg r).readOnly = false) := busWrite_reg_accepted w s hro (.inl idle)
  refine ⟨write (r := .argT) rfl, write (r := .argD) rfl, write (r := .argB) rfl, write (r := .argK) rfl,
    write (r := .argOff) rfl, fun r hr => ?_⟩
  have readBack : (Target.reg r).readOnly = false ∧ (Target.reg r).hiddenWhileBusy = false ∧
      (s.writeReg w r).regWord r = zext32 (w.extractLsb' 0 16) := by
    simp only [List.mem_cons, List.not_mem_nil, or_false] at hr
    rcases hr with rfl | rfl | rfl | rfl | rfl <;> exact ⟨rfl, rfl, rfl⟩
  obtain ⟨hro, visible, stored⟩ := readBack
  rw [write hro, busRead_reg_visible _ visible, stored, zext32_low_half]

/-- The sixteen error codes in the order of their numbers (60_exceptions.md R201). -/
def allErrCodes : List ErrCode :=
  [.none, .illegalCmd, .gfDomain, .noEcBytes, .noDataBytes, .blocksZero, .totalRange, .dataRange, .blockIdRange,
    .spanRange, .ecRange, .ecMismatch, .blockMismatch, .totalMismatch, .dataMismatch, .interleaveMismatch]

theorem mem_allErrCodes (c : ErrCode) : c ∈ allErrCodes := by cases c <;> decide

/-- Every 4-bit value is the code of one error. -/
theorem existsUnique_errCode (v : BitVec 4) : ∃ c : ErrCode, c.code = v ∧ ∀ d : ErrCode, d.code = v → d = c := by
  have listed : ∀ v : BitVec 4, ∃ c ∈ allErrCodes, c.code = v ∧ ∀ d ∈ allErrCodes, d.code = v → d = c := by decide
  obtain ⟨c, -, code, unique⟩ := listed v
  exact ⟨c, code, fun d => unique d (mem_allErrCodes d)⟩

/-- The level of the line (10_state.md R44). -/
theorem State.irq_iff (s : State) :
    s.irq = true ↔ s.status.done = true ∧ s.irqEn.doneIe = true ∨ s.status.err = true ∧ s.irqEn.errIe = true ∨
      s.status.accessErr = true ∧ s.irqEn.accIe = true := by
  simp [State.irq, or_assoc]

/-- Settles O52: STATUS is always visible, and its word holds each field in its place (`Status.word_bits`). -/
theorem statusWordAndIrq : Obligations.StatusWordAndIrq := by
  unfold Obligations.StatusWordAndIrq
  refine ⟨by decide, existsUnique_errCode, fun s => ⟨s.status.word, busRead_reg_visible (r := .status) s rfl, ?_⟩⟩
  obtain ⟨busy, done, err, accessErr, errcode, reserved⟩ := s.status.word_bits
  exact ⟨busy, done, err, accessErr, errcode, reserved, s.irq_iff⟩

/-! ### Writes done twice -/

theorem Memory.mem_of_lookup {m : List Host.Cell} {a : Nat} {b : Byte} (h : Memory.lookup m a = some b) :
    (a, b) ∈ m := by
  induction m with
  | nil => cases h
  | cons c m ih =>
    obtain ⟨k, v⟩ := c
    rw [Memory.lookup] at h
    split at h
    next hk => rw [hk, Option.some.inj h]; exact List.mem_cons_self
    next => exact List.mem_cons_of_mem _ (ih h)

/-- Writing a byte that is written already changes nothing, over a memory in canonical form. -/
theorem Memory.store_of_lookup {m : List Host.Cell} {a : Nat} {b : Byte} (hwf : Memory.wf m)
    (h : Memory.lookup m a = some b) : Memory.store m a b = m := by
  induction m with
  | nil => cases h
  | cons c m ih =>
    obtain ⟨k, v⟩ := c
    obtain ⟨hk, hm⟩ := List.pairwise_cons.mp hwf
    rw [Memory.lookup] at h
    split at h
    next hka =>
      subst hka
      rw [Memory.store, if_neg (lt_irrefl k), if_pos rfl, Option.some.inj h]
    next hka =>
      have above : k < a := hk _ (Memory.mem_of_lookup h)
      rw [Memory.store, if_neg (by omega), if_neg (by omega), ih hm h]

theorem State.lookup_writeLane (s : State) (sp : Space) (i : Nat) (w : Word) (strb : BitVec 4) (l a : Nat) :
    Memory.lookup (s.writeLane sp i w strb l).mem a =
      if strb.getLsbD l = true ∧ a = sp.base + (i + l) then some (lane w l) else Memory.lookup s.mem a := by
  unfold State.writeLane
  split
  next hs =>
    by_cases ha : a = sp.base + (i + l)
    · rw [if_pos ⟨hs, ha⟩, ha]; exact Memory.lookup_store_same _ _ _
    · rw [if_neg fun h => ha h.2]; exact Memory.lookup_store_other _ _ ha
  next hs => rw [if_neg fun h => hs h.1]

/-- An enabled lane of a written word is listed with its data. -/
theorem State.lookup_writeLanes (s : State) (sp : Space) (i : Nat) (w : Word) {strb : BitVec 4} {l : Nat} (hl : l < 4)
    (hs : strb.getLsbD l = true) :
    Memory.lookup (s.writeLanes sp i w strb).mem (sp.base + (i + l)) = some (lane w l) := by
  simp only [State.writeLanes, List.foldl_cons, List.foldl_nil, State.lookup_writeLane]
  interval_cases l <;> simp [hs]

/-- Writing the same lanes again changes nothing. -/
theorem State.writeLanes_writeLanes (s : State) (sp : Space) (i : Nat) (w : Word) (strb : BitVec 4)
    (hwf : Memory.wf s.mem) :
    (s.writeLanes sp i w strb).writeLanes sp i w strb = s.writeLanes sp i w strb := by
  have again : ∀ l, l < 4 → (s.writeLanes sp i w strb).writeLane sp i w strb l = s.writeLanes sp i w strb := by
    intro l hl
    rw [State.writeLane]
    split
    next hs =>
      have written := s.lookup_writeLanes sp i w hl hs
      rw [State.writeByte, Memory.store_of_lookup (State.writeLanes_wf sp i w strb hwf) written]
    next => rfl
  rw [State.writeLanes.eq_def (s.writeLanes sp i w strb)]
  simp only [List.foldl_cons, List.foldl_nil]
  rw [again 0 (by decide), again 1 (by decide), again 2 (by decide), again 3 (by decide)]

theorem busWrite_accepted {addr : BitVec 16} (w : Word) {strb : BitVec 4} {s : State} (ha : aligned addr = true)
    (hro : (targetOf addr).readOnly = false) (hstrb : (targetOf addr).strobeOk strb = true)
    (hfree : s.status.busy = true → (targetOf addr).lockedWhileBusy = false) :
    busWrite addr w strb s = (s.writeTarget w strb (targetOf addr), .ok) := by
  have free : (s.status.busy && (targetOf addr).lockedWhileBusy) = false := by
    rw [Bool.and_eq_false_imp]; exact hfree
  simp [busWrite, ha, hro, hstrb, free]

/-- An accepted write to another target than CMD and CTRL keeps STATUS and has its effect once. -/
theorem State.writeTarget_again {s : State} {tgt : Target} (w : Word) (strb : BitVec 4) (hwf : Memory.wf s.mem)
    (hctrl : tgt ≠ .reg .ctrl) (hcmd : tgt ≠ .reg .cmd) :
    (s.writeTarget w strb tgt).status = s.status ∧
      (s.writeTarget w strb tgt).writeTarget w strb tgt = s.writeTarget w strb tgt := by
  cases tgt with
  | unmapped => exact ⟨rfl, rfl⟩
  | word sp i => exact ⟨s.writeLanes_status sp i w strb, s.writeLanes_writeLanes sp i w strb hwf⟩
  | reg r =>
    cases r with
    | ctrl => exact absurd rfl hctrl
    | cmd => exact absurd rfl hcmd
    | _ => exact ⟨rfl, rfl⟩

/-- Settles O48: a refused write is refused again, and an accepted one has its effect once
(`State.writeTarget_again`). -/
theorem readsHaveNoSideEffect : Obligations.ReadsHaveNoSideEffect := by
  unfold Obligations.ReadsHaveNoSideEffect
  refine ⟨fun _ _ => rfl, fun addr w strb s hwf hctrl hcmd => ?_⟩
  rcases busWrite_outcomes addr w strb s with h | ⟨busy, locked, h⟩ | ⟨ha, hro, hstrb, hfree, h⟩
  · rw [h]; exact congrArg Prod.fst h
  · rw [h]; exact congrArg Prod.fst (busWrite_of_lockedWrite w _ busy locked)
  · obtain ⟨status, again⟩ := State.writeTarget_again w strb hwf (tgt := targetOf addr)
      (fun ht => hctrl (targetOf_eq_reg.mp ht)) (fun ht => hcmd (targetOf_eq_reg.mp ht))
    rw [h, busWrite_accepted w ha hro hstrb (by rw [status]; exact hfree), again]

end Sys2Proof.Machine
end
